-- ==== Sys2Proof/Word.lean ====
section
/-! DEFINITION. The byte, the only word type of the block (R9), and the sum of a byte sequence. -/

namespace Sys2Proof

/-- A byte: an unsigned integer in 0..255, 8 bits, bit 7 the most significant (R9). -/
abbrev Byte := BitVec 8

/-- `sum(s)` of R9: the sum of the elements of a byte sequence as an unbounded natural number, 0 for the empty one. -/
def sumBytes (s : List Byte) : Nat := (s.map BitVec.toNat).sum

end Sys2Proof
end

