-- ==== Sys2Proof/Config.lean ====
section
/-! DEFINITION. What is fixed for the block: the constants of R7, the parameters the spec leaves to the platform (R8,
R133), and the free values (the environment's answers where none is scripted, R6 and R38; the unspecified packet fields
of a failed read, R28). The free values are opaque constants: nothing can be proved about which values they are. -/

namespace Sys2Proof

namespace Config

/-- SOM, the start-of-message marker byte (R7). -/
def som : Byte := 0x3B

/-- OVERHEAD: the bytes counted by LEN besides the payload, that is SRC, RCV and CMD (R7). -/
def overhead : Nat := 3

/-- MAX_PAYLOAD: the largest payload length, so that LEN <= 255 (R7). It is also the size of both payload buffers
(R27, R28). -/
def maxPayload : Nat := 252

/-- The default of LOCAL_ADDR (R7, R21). -/
def defaultLocalAddr : Byte := 0x20

/-- DESCRIBE_MAX: the largest payload length for which a diagnostic record holds a parsed value (R7, R132). -/
def describeMax : Nat := 3

/-- The label shown for an address or a command without a name (R133). -/
def unknownLabel : String := "unknown"

/-- `NameOfAddress`: a total function from a byte to an optional name, fixed at configuration time; the table is not in
the spec (R133, 91_not_in_source.md N3). Log entry 7. -/
opaque nameOfAddress : Byte → Option String

/-- `NameOfCommand`: as `nameOfAddress`, for command bytes (R133). Log entry 7. -/
opaque nameOfCommand : Byte → Option String

/-- The environment's answer to the n-th free draw made for an `RxRead()`: `some b` a byte, `none` a read that timed
out. A free value (R6, R8: "any"). Log entry 3. -/
opaque rxAnswer : Nat → Option Byte

/-- The environment's answer to the n-th free draw made for a `CtsSample()`: true is asserted. A free value (R6, R8:
"any"). Log entry 3. -/
opaque ctsLevel : Nat → Bool

/-- The n-th free byte: what the spec calls unspecified in the RX packet register after a failed read (R28). Log
entry 6. -/
opaque freeByte : Nat → Byte

end Config

end Sys2Proof
end

