-- ==== Sys2Proof/Syntax.lean ====
section
/-! DEFINITION. The operations of the block, one constructor per row of spec/opcode_table.json: the thirteen host
operations of R103, the three reserved codes of R105, and the wire frame of R90. Operands are those of the abstract
operations (R101: "natural-number operands ... the abstract operand ranges are those of the operation's own rule"); the
payload and header operands of construction are integers, because R121 says what construction does with a value outside
0..255. -/

namespace Sys2Proof

/-- One row of the operation table each (R103, R105, R90). -/
inductive Instr
  /-- OPEN(local, ctrl, timeout), R196. -/
  | openSession (addr ctrl timeout : Byte)
  /-- CLOSE, R198 and R199. -/
  | closeSession
  /-- BUILD(src, rcv, cmd, data), R121; integers. -/
  | build (src rcv cmd : Int) (data : List Int)
  /-- ENCODE(sel), R123. -/
  | encode (sel : Byte)
  /-- CHECKSUM_VALID(sel), R126. -/
  | checksumValid (sel : Byte)
  /-- DESCRIBE(sel), R130. -/
  | describe (sel : Byte)
  /-- INT_TO_3BYTES(value), R128; a natural number. -/
  | intTo3Bytes (value : Nat)
  /-- READ_PACKET, R150. -/
  | readPacket
  /-- TAKE_BUS, R181. -/
  | takeBus
  /-- RELEASE_BUS, R183. -/
  | releaseBus
  /-- SEND(dst, cmd, data), R201; integers. -/
  | send (dst cmd : Int) (data : List Int)
  /-- RECEIVE, R204. -/
  | receive
  /-- SEND_RECEIVE(dst, cmd, data), R210; integers. -/
  | sendReceive (dst cmd : Int) (data : List Int)
  /-- The reserved code 0x0D, R105. -/
  | reserved0D
  /-- The reserved code 0x0E, R105. -/
  | reserved0E
  /-- The reserved code 0x0F, R105. -/
  | reserved0F
  /-- FRAME, the wire frame `SOM LEN SRC RCV CMD payload CHK` (R90). It is no host command: it is the form in which
  bytes come in on the receive line (log entry 8). -/
  | frame (len src rcv cmd : Byte) (payload : List Byte) (chk : Byte)
  deriving DecidableEq, Repr

end Sys2Proof
end

