-- ==== Sys2Proof/Machine/State.lean ====
section
/-! DEFINITION. The state of the Aux packet engine (10_state.md), as plain data, and its reset value (R45, R260). -/

namespace Sys2Proof.Machine

/-- STATUS.SESS, the life cycle of the Session (R34). -/
inductive Session
  | closed | opened
  deriving DecidableEq, Repr

/-- Completion status (R104). -/
inductive Status
  | ok | noPacket | malformed | refused | aborted
  deriving DecidableEq, Repr

/-- RSTATE, the Reader's state (R31). -/
inductive ReaderState
  | scanning | header | payload | checksum | done
  deriving DecidableEq, Repr

/-- SSTATE, the Session sequencer's state (R33). -/
inductive SeqState
  | idle | take | write | echo | resp
  deriving DecidableEq, Repr

/-- Checksum status of a diagnostic record (R106). -/
inductive ChkStatus
  | unknown | ok | failed
  deriving DecidableEq, Repr

/-- A Packet value: addresses, command, payload, and the `receivedChecksum`, absent on a freshly built one (R12, R27,
R28, R29). -/
structure Packet where
  src : Byte
  rcv : Byte
  cmd : Byte
  data : List Byte
  receivedChecksum : Option Byte
  deriving DecidableEq, Repr

/-- The diagnostic record of DESCRIBE (R130). `parsed = none` is parsed_valid = 0. -/
structure DiagRecord where
  src : Byte
  srcName : String
  rcv : Byte
  rcvName : String
  cmd : Byte
  cmdName : String
  data : List Byte
  chkStatus : ChkStatus
  parsed : Option Nat
  deriving DecidableEq, Repr

/-- RESULT, by the shape of the operation's result (R42). -/
inductive Result
  | empty
  | packet (p : Packet)
  | bytes (s : List Byte)
  | threeBytes (b2 b1 b0 : Byte)
  | bit (b : Bool)
  | record (r : DiagRecord)
  deriving DecidableEq, Repr

/-- The operations as the completion record names them (R44, R103). `reserved` stands for every reserved or short
command of R105 (log entry 12). -/
inductive OpName
  | openSession | closeSession | build | encode | checksumValid | describe | intTo3Bytes
  | readPacket | takeBus | releaseBus | send | receive | sendReceive | reserved
  deriving DecidableEq, Repr

/-- The answer to an `RxRead()` (R10, R61). That the history records a `Closed` one, as it does for a `CtsSample()`, is
the model's choice: R44 lists only a byte and `NoByte` (DESIGN CHOICE, log entry 29). -/
inductive RxAnswer
  | byte (b : Byte) | noByte | closed
  deriving DecidableEq, Repr

/-- The answer to a `CtsSample()` (R10). -/
inductive CtsAnswer
  | level (v : Bool) | closed
  deriving DecidableEq, Repr

/-- A record of the debug output (R43). -/
inductive DebugRecord
  | tx (r : DiagRecord) | rx (r : DiagRecord) | ignored | noise (b : Byte)
  deriving DecidableEq, Repr

/-- An event of the history (R44). -/
inductive Event
  | rx (a : RxAnswer)
  | cts (a : CtsAnswer)
  | rts (v : Bool)
  | tx (s : List Byte)
  | dbg (r : DebugRecord)
  | done (op : OpName) (st : Status) (res : Result)
  deriving DecidableEq, Repr

/-- What the transport will answer to one `RxRead()`: a byte that has arrived, or a read timeout that expires with no
byte (R61, R63, R246). -/
inductive Arrival
  | byte (b : Byte) | silence
  deriving DecidableEq, Repr

/-- The place a running operation has reached: its next interaction with the line (R6, log entry 19). -/
inductive Point
  /-- TakeBus: the next `CtsSample()` (R181). -/
  | sample
  /-- TakeBus: CTS was sampled 0, next `RTS <- 1` (R181, R182). -/
  | assertRts
  /-- Send: next the DBG_TX record (R201). -/
  | debugTx
  /-- Send: next `TxWrite` (R201). -/
  | write
  /-- ReadPacket: the next `RxRead()` (R150). -/
  | read
  /-- ReadPacket: next the DBG_NOISE record of the byte just dropped (R152). -/
  | debugNoise (b : Byte)
  /-- ReadPacket: next the DBG_RX record of the packet just read (R158). -/
  | debugRx
  /-- Receive: the echo was read, next `RTS <- 0` (R205). -/
  | release
  /-- Receive: next the DBG_IGNORED record (R207). -/
  | debugIgnored
  deriving DecidableEq, Repr

/-- An operation in progress. -/
structure Task where
  op : OpName
  point : Point
  deriving DecidableEq, Repr

/-- The TX packet register (R27). -/
structure TxReg where
  src : Byte
  rcv : Byte
  cmd : Byte
  cnt : Byte
  data : List Byte
  deriving DecidableEq, Repr

/-- The RX packet register (R28, R29). -/
structure RxReg where
  src : Byte
  rcv : Byte
  cmd : Byte
  cnt : Byte
  data : List Byte
  chk : Byte
  chkPresent : Bool
  deriving DecidableEq, Repr

/-- Something the outside presents to the block. -/
inductive Stimulus
  /-- The host presents a command word (R101 to R103). -/
  | command (bytes : List Byte)
  /-- The host presents an abstract operation (R101). -/
  | call (op : Instr)
  /-- Bytes come in on the receive line (R63). -/
  | wire (bytes : List Byte)
  /-- The read after the bytes that have arrived times out (R61, R246). -/
  | silence
  /-- Reset (R260, R261). -/
  | reset
  deriving DecidableEq, Repr

/-- When a stimulus is presented (log entry 1). -/
inductive Timing
  /-- When no operation is running: a host that waits for completion (R274). -/
  | onIdle
  /-- After that many more steps, whatever the block is doing. -/
  | after (steps : Nat)
  deriving DecidableEq, Repr

/-- A stimulus with its time. -/
structure Input where
  timing : Timing
  what : Stimulus
  deriving DecidableEq, Repr

/-- What a step finds to do (Machine/Fetch.lean). -/
inductive Fetched
  /-- An operation was presented: its meaning runs. -/
  | operation (i : Instr)
  /-- A command word with no meaning was presented (R105). -/
  | reservedCommand
  /-- These arrivals join the transport's queue. -/
  | arrivals (a : List Arrival)
  /-- The reset input. -/
  | resetInput
  /-- Nothing was presented: the engine goes on. -/
  | engine
  deriving DecidableEq, Repr

/-- The state of the block (R20), of the transport's queue (R38), of the outside (log entries 1 to 3), and the event
history (R44). -/
@[ext]
structure State where
  /-- LOCAL_ADDR (R21). -/
  localAddr : Byte
  /-- CTRL (R22): bit 0 ARB, bit 1 ABORT_ON_TIMEOUT, bit 2 DEBUG, bits 7:3 zero. -/
  ctrl : Byte
  /-- READ_TIMEOUT, whole seconds (R23). -/
  readTimeout : Byte
  /-- STATUS.SESS (R24, R34). -/
  sess : Session
  /-- STATUS.LAST_ST (R24). -/
  lastSt : Status
  /-- LINE.RTS (R25). -/
  rts : Bool
  /-- The TX packet register (R27). -/
  tx : TxReg
  /-- The RX packet register (R28, R29). -/
  rx : RxReg
  /-- RSTATE (R31). -/
  rstate : ReaderState
  /-- HIDX (R32). -/
  hidx : BitVec 2
  /-- RX_LEN (R32). -/
  rxLen : Byte
  /-- SSTATE (R33). -/
  sstate : SeqState
  /-- RESULT (R42). -/
  result : Result
  /-- The operation in progress; STATUS.BUSY is 1 exactly when there is one (R24, R195). -/
  running : Option Task
  /-- How many accepted CLOSEs wait for the running operation to end (R199, log entries 15 and 16). -/
  closing : Nat
  /-- The transport's receive queue and the timeouts to come, in answer order (R38, R63). -/
  rxIn : List Arrival
  /-- The CTS levels the environment answers next (R8). -/
  ctsIn : List Bool
  /-- How many free values have been drawn. -/
  draws : Nat
  /-- What the outside presents, and when (R6, R39). -/
  inputs : List Input
  /-- The event history, oldest first (R44). -/
  history : List Event
  deriving DecidableEq, Repr

/-- Reasons the machine stops with a fault: none. The block has no traps and no dead state; every condition is a
completion status or an endless wait, all of them next states (R230, R244). -/
inductive Fault
  deriving DecidableEq, Repr

/-- Reasons an operation has no meaning. -/
inductive Refusal
  /-- Raised by `exec` alone, for an operation whose meaning is not written yet (none is); safe. -/
  | notModelled (mnemonic : String)
  deriving DecidableEq, Repr

/-- A payload buffer of zeros (log entry 5: the spec leaves the reset contents unspecified). -/
def zeroBuffer : List Byte := List.replicate Config.maxPayload 0

/-- The machine right after reset (R45, R260). Where R45 says "unspecified" the value is zero (log entry 5); the
outside's fields are empty (log entries 1 to 3). -/
def State.reset : State where
  localAddr := Config.defaultLocalAddr
  ctrl := 0
  readTimeout := 1
  sess := .closed
  lastSt := .ok
  rts := false
  tx := { src := 0, rcv := 0, cmd := 0, cnt := 0, data := zeroBuffer }
  rx := { src := 0, rcv := 0, cmd := 0, cnt := 0, data := zeroBuffer, chk := 0, chkPresent := false }
  rstate := .scanning
  hidx := 0
  rxLen := 0
  sstate := .idle
  result := .empty
  running := none
  closing := 0
  rxIn := []
  ctsIn := []
  draws := 0
  inputs := []
  history := []

end Sys2Proof.Machine
end

