-- ==== Sys2Proof/Machine/Packet.lean ====
section
/-! DEFINITION. Packet values: construction (R121), the checksum function (R122), `Encode` (R123), `ChecksumValid`
(R126), `IntToThreeBytes` (R128) and `Describe` (R130 to R133), as functions on values. -/

namespace Sys2Proof.Machine

/-- `Chk(body) = (256 - (sum(body) mod 256)) mod 256` (R122, R93). -/
def chk (body : List Byte) : Byte := BitVec.ofNat 8 ((256 - sumBytes body % 256) % 256)

/-- LEN = 3 + payload length (R92). -/
def Packet.len (p : Packet) : Byte := BitVec.ofNat 8 (Config.overhead + p.data.length)

/-- `body = [LEN, SRC, RCV, CMD] ++ data`, the bytes the checksum covers (R93, R123). -/
def Packet.body (p : Packet) : List Byte := [p.len, p.src, p.rcv, p.cmd] ++ p.data

/-- `Encode(P) = [0x3B] ++ body ++ [Chk(body)]` (R123). It ignores `receivedChecksum`. -/
def encodePacket (p : Packet) : List Byte := [Config.som] ++ p.body ++ [chk p.body]

/-- `ChecksumValid(P)`: the received checksum against the trailing byte of `Encode(P)`; none where
`receivedChecksum` is absent, which has no meaning (R126, D24). -/
def checksumValid (p : Packet) : Option Bool := p.receivedChecksum.map fun c => c == chk p.body

/-- An operand of construction is a byte value, 0..255 (R121). -/
def inByteRange (x : Int) : Bool := decide (0 ≤ x) && decide (x ≤ 255)

/-- Packet construction (R121): the packet, or none where construction refuses it (ST_MALFORMED), because a data byte,
a header field or the payload length is out of range. Nothing is clamped or wrapped. -/
def construct (src rcv cmd : Int) (data : List Int) : Option Packet :=
  if !data.all inByteRange then none
  else if !(inByteRange src && inByteRange rcv && inByteRange cmd) then none
  else if Config.maxPayload < data.length then none
  else some
    { src := BitVec.ofInt 8 src, rcv := BitVec.ofInt 8 rcv, cmd := BitVec.ofInt 8 cmd,
      data := data.map (BitVec.ofInt 8), receivedChecksum := none }

/-- The bytes `(v >> 16) & 0xFF`, `(v >> 8) & 0xFF`, `v & 0xFF` of INT_TO_3BYTES, most significant first (R128). -/
def intToThreeBytes (v : Nat) : Byte × Byte × Byte :=
  (BitVec.ofNat 8 ((v >>> 16) &&& 0xFF), BitVec.ofNat 8 ((v >>> 8) &&& 0xFF), BitVec.ofNat 8 (v &&& 0xFF))

/-- The payload as one big-endian unsigned integer; 0 for the empty one (R132). -/
def bigEndian (data : List Byte) : Nat := data.foldl (fun acc b => acc * 256 + b.toNat) 0

/-- The parsed value of a diagnostic record, given only for payloads of at most 3 bytes (R132). -/
def parsedValue (data : List Byte) : Option Nat :=
  if data.length ≤ Config.describeMax then some (bigEndian data) else none

/-- The checksum status of a diagnostic record (R131). -/
def chkStatus (p : Packet) : ChkStatus :=
  match checksumValid p with
  | none => .unknown
  | some true => .ok
  | some false => .failed

/-- The name of an address, or the label of R133. -/
def addressName (b : Byte) : String := (Config.nameOfAddress b).getD Config.unknownLabel

/-- The name of a command, or the label of R133. -/
def commandName (b : Byte) : String := (Config.nameOfCommand b).getD Config.unknownLabel

/-- `Describe(P)` (R130). -/
def describePacket (p : Packet) : DiagRecord where
  src := p.src
  srcName := addressName p.src
  rcv := p.rcv
  rcvName := addressName p.rcv
  cmd := p.cmd
  cmdName := commandName p.cmd
  data := p.data
  chkStatus := chkStatus p
  parsed := parsedValue p.data

end Sys2Proof.Machine
end

