-- ==== Sys2Proof/Machine/Flags.lean ====
section
/-! DEFINITION. The flags of the block: the fields of CTRL, STATUS and LINE (R22, R24, R25), the codes of the statuses
and states (R31, R33, R104, R106), and the registers the host reads by number (R26). -/

namespace Sys2Proof.Machine

/-- Code of SESS (R34). -/
def Session.code : Session → Nat
  | .closed => 0
  | .opened => 1

/-- Code of a completion status (R104). -/
def Status.code : Status → Nat
  | .ok => 0
  | .noPacket => 1
  | .malformed => 2
  | .refused => 3
  | .aborted => 4

/-- Code of RSTATE (R31). -/
def ReaderState.code : ReaderState → Nat
  | .scanning => 0
  | .header => 1
  | .payload => 2
  | .checksum => 3
  | .done => 4

/-- Code of SSTATE (R33). -/
def SeqState.code : SeqState → Nat
  | .idle => 0
  | .take => 1
  | .write => 2
  | .echo => 3
  | .resp => 4

/-- Code of the checksum status of a diagnostic record (R106). -/
def ChkStatus.code : ChkStatus → Nat
  | .unknown => 0
  | .ok => 1
  | .failed => 2

/-- CTRL.ARB, bit 0 (R22). -/
def State.arb (s : State) : Bool := s.ctrl.getLsbD 0

/-- CTRL.ABORT_ON_TIMEOUT, bit 1 (R22). -/
def State.abortOnTimeout (s : State) : Bool := s.ctrl.getLsbD 1

/-- CTRL.DEBUG, bit 2 (R22). -/
def State.debug (s : State) : Bool := s.ctrl.getLsbD 2

/-- What OPEN writes into CTRL: bits 2:0 of its operand; bits 7:3 are ignored and read as 0 (R22, R196). -/
def ctrlOfOperand (ctrl : Byte) : Byte := ctrl &&& 0x07

/-- STATUS.BUSY (R24, R195). -/
def State.busy (s : State) : Bool := s.running.isSome

/-- The STATUS register: SESS bit 0, BUSY bit 1, LAST_ST bits 4:2 (R24). -/
def State.statusByte (s : State) : Byte :=
  BitVec.ofNat 8 (s.sess.code + 2 * s.busy.toNat + 4 * s.lastSt.code)

/-- The LINE register as read with the CTS input at level `cts`: RTS bit 0, CTS bit 1 (R25). -/
def State.lineByte (s : State) (cts : Bool) : Byte := BitVec.ofNat 8 (s.rts.toNat + 2 * cts.toNat)

/-- Register 0x05: RSTATE in bits 2:0, HIDX in bits 4:3 (R26). -/
def State.readerByte (s : State) : Byte := BitVec.ofNat 8 (s.rstate.code + 8 * s.hidx.toNat)

/-- The debug output stream (R43), a view of the history. -/
def State.debugOutput (s : State) : List DebugRecord :=
  s.history.filterMap fun
    | .dbg r => some r
    | _ => none

/-- The TX byte stream (R37), a view of the history: the frames written, in the order written. -/
def State.txStream (s : State) : List Byte :=
  s.history.flatMap fun
    | .tx f => f
    | _ => []

end Sys2Proof.Machine
end

