-- ==== Sys2Proof/Machine/Ops.lean ====
section
/-! DEFINITION. The operations over the state that the meanings share: events, the RTS output, the environment's
answers, the packet registers, and acceptance, completion and refusal of an operation. The block saves nothing and
vectors nowhere when an operation ends without its normal result (R241, R242): `complete` is what every ending operation
does, and there is no return from it. -/

namespace Sys2Proof.Machine

/-- The block produces one event (R44). -/
def emit (e : Event) (s : State) : State := { s with history := s.history ++ [e] }

/-- `RTS <- v`: drive the output; every write is an event (R10, R44). -/
def setRts (v : Bool) (s : State) : State := emit (.rts v) { s with rts := v }

/-- ReleaseBus: with ARB = 0 nothing, otherwise `RTS <- 0` (R183, R184). -/
def releaseBus (s : State) : State := if s.arb then setRts false s else s

/-- The transport's next answer to `RxRead()`, taken from its queue; where nothing is queued it is a free value (R38,
R61, log entry 3). -/
def takeArrival (s : State) : Arrival × State :=
  match s.rxIn with
  | a :: rest => (a, { s with rxIn := rest })
  | [] =>
    (match Config.rxAnswer s.draws with
      | some b => .byte b
      | none => .silence, { s with draws := s.draws + 1 })

/-- The environment's next CTS level; where none is scripted it is a free value (R8, R25, log entry 3). -/
def takeCts (s : State) : Bool × State :=
  match s.ctsIn with
  | v :: rest => (v, { s with ctsIn := rest })
  | [] => (Config.ctsLevel s.draws, { s with draws := s.draws + 1 })

/-- Arrivals join the transport's queue, behind what already waits there (R63). -/
def deliver (arrivals : List Arrival) (s : State) : State := { s with rxIn := s.rxIn ++ arrivals }

/-- The Packet in the TX packet register; its `receivedChecksum` is absent (R27, R29). -/
def State.txPacket (s : State) : Packet :=
  { src := s.tx.src, rcv := s.tx.rcv, cmd := s.tx.cmd, data := s.tx.data.take s.tx.cnt.toNat,
    receivedChecksum := none }

/-- The Packet in the RX packet register (R28). It is one only while `rx.chkPresent` is set. -/
def State.rxPacket (s : State) : Packet :=
  { src := s.rx.src, rcv := s.rx.rcv, cmd := s.rx.cmd, data := s.rx.data.take s.rx.cnt.toNat,
    receivedChecksum := some s.rx.chk }

/-- BUILD's writes: all fields together; the buffer bytes past the payload are not written (R27, R121). -/
def loadTx (p : Packet) (s : State) : State :=
  { s with
    tx :=
      { src := p.src, rcv := p.rcv, cmd := p.cmd, cnt := BitVec.ofNat 8 p.data.length,
        data := p.data ++ s.tx.data.drop p.data.length } }

/-- How many free bytes `forgetRx` draws: four fields and the buffer. -/
def rxFreeBytes : Nat := 4 + Config.maxPayload

/-- After a read that ended with no packet RX_SRC, RX_RCV, RX_CMD, RX_DATA and RX_CHK are unspecified (R28, D28): free
values. RX_CNT and RX_CHK_PRESENT are not among them. -/
def forgetRx (s : State) : State :=
  { s with
    rx :=
      { s.rx with
        src := Config.freeByte s.draws, rcv := Config.freeByte (s.draws + 1), cmd := Config.freeByte (s.draws + 2),
        chk := Config.freeByte (s.draws + 3),
        data := (List.range Config.maxPayload).map fun i => Config.freeByte (s.draws + 4 + i) }
    draws := s.draws + rxFreeBytes }

/-- An operation that goes on past this step is accepted: BUSY is 1 and RESULT is no longer held (R42, R195, log entry
13). -/
def accept (op : OpName) (point : Point) (s : State) : State :=
  { s with running := some { op := op, point := point }, result := .empty }

/-- A running operation goes on to its next interaction with the line. -/
def goto (op : OpName) (point : Point) (s : State) : State := { s with running := some { op := op, point := point } }

/-- RESULT for a status: with any status but ST_OK it is empty (R42). -/
def resultFor (st : Status) (res : Result) : Result := if st = .ok then res else .empty

/-- Completion of an operation that ends in the step that accepted it: LAST_ST, RESULT and the completion record (R24,
R42, R44). -/
def finish (op : OpName) (st : Status) (res : Result) (s : State) : State :=
  emit (.done op st (resultFor st res)) { s with lastSt := st, result := resultFor st res }

/-- Completion of a running operation: also BUSY <- 0 and SSTATE <- S_IDLE (R33, R241). -/
def complete (op : OpName) (st : Status) (res : Result) (s : State) : State :=
  finish op st res { s with running := none, sstate := .idle }

/-- ST_REFUSED: no state change but LAST_ST and RESULT (emptied), and no line activity (R105, R200). A command refused
while another operation runs leaves that operation running (log entry 14). -/
def refuse (op : OpName) (s : State) : State := finish op .refused .empty s

/-- The start of every read (R151). -/
def startRead (s : State) : State :=
  { s with rstate := .scanning, hidx := 0, rx := { s.rx with cnt := 0, chkPresent := false } }

/-- Reset of the block (R260, R261): every register to its reset value, the running operation abandoned with no
completion and no event. The outside is not the block's: what it will present and answer stays, and the history of what
happened stays (log entry 21). -/
def resetBlock (s : State) : State :=
  { State.reset with
    rxIn := s.rxIn, ctsIn := s.ctsIn, draws := s.draws, inputs := s.inputs, history := s.history }

end Sys2Proof.Machine
end

