-- ==== Sys2Proof/Machine/Operands.lean ====
section
/-! DEFINITION. Operand forms: the `sel` operand (R103, R105), admission by session state (R200), and the registers the
host reads by number (R26). -/

namespace Sys2Proof.Machine

/-- The Packet that `sel` selects: 0 the TX packet register, 1 the RX packet register while it holds a packet; none for
a reserved `sel` and for an RX register without a packet (R105, R123, R130, D24). -/
def selPacket (sel : Byte) (s : State) : Option Packet :=
  if sel = 0 then some s.txPacket
  else if sel = 1 then (if s.rx.chkPresent then some s.rxPacket else none)
  else none

/-- Something is under way: a running operation, or an accepted CLOSE not yet completed. A host that waits for
completion (R274) waits for both. -/
def State.occupied (s : State) : Bool := s.busy || s.closing ≠ 0

/-- The running operation has ended, and an accepted CLOSE proceeds next (R199). -/
def State.closeIsNext (s : State) : Bool := !s.busy && s.closing ≠ 0

/-- Admission of an operation by STATUS alone: the session state and BUSY (R120, R162, R187, R200). CLOSE is the one
command accepted while busy (R199), and so is a second one (log entry 16). An operation that is issued after an accepted
CLOSE is looked at once that CLOSE has completed, if it does not come while the block is busy (`fetch`; R73). -/
def admitted (op : OpName) (s : State) : Bool :=
  match op with
  | .openSession => s.sess = .closed && !s.busy
  | .closeSession => s.sess = .opened
  | .build | .encode | .checksumValid | .describe | .intTo3Bytes => !s.busy
  | .readPacket | .takeBus | .releaseBus | .send | .receive | .sendReceive => s.sess = .opened && !s.busy
  | .reserved => false

/-- The register with a number, read with the CTS input at level `cts` (R26); none for a number without a register. -/
def readRegister (number : Byte) (cts : Bool) (s : State) : Option Byte :=
  match number.toNat with
  | 0x00 => some s.localAddr
  | 0x01 => some s.ctrl
  | 0x02 => some s.readTimeout
  | 0x03 => some s.statusByte
  | 0x04 => some (s.lineByte cts)
  | 0x05 => some s.readerByte
  | 0x06 => some (BitVec.ofNat 8 s.sstate.code)
  | 0x07 => some s.rxLen
  | 0x08 => some s.rx.cnt
  | _ => none

/-- A host read of a register by number: a read of LINE takes a fresh CTS sample, any other read changes nothing (R25,
R26; log entry 23). -/
def hostRead (number : Byte) (s : State) : Option Byte × State :=
  if number = 0x04 then
    let (cts, s1) := takeCts s
    (readRegister number cts s, emit (.cts (.level cts)) s1)
  else (readRegister number false s, s)

end Sys2Proof.Machine
end

