-- ==== Sys2Proof/Machine/Codec.lean ====
section
/-! DEFINITION. The Packet Codec operations (40_codec.md): BUILD, ENCODE, CHECKSUM_VALID, INT_TO_3BYTES, DESCRIBE. They
perform no interaction with the line and complete in one step (R120). -/

namespace Sys2Proof.Machine

/-- A Codec operation: refused while busy (R120), otherwise run and completed in this step. -/
def codecStep (op : OpName) (run : State → State) (s : State) : Host.Outcome State Fault Refusal :=
  if admitted op s then .next (run s) else .next (refuse op s)

/-- A Codec operation that reads: ST_OK with its result, or ST_REFUSED where it has none. -/
def finishOption (op : OpName) (res : Option Result) (s : State) : State :=
  match res with
  | some r => finish op .ok r s
  | none => refuse op s

/-- BUILD(src, rcv, cmd, data), R121. -/
def execBuild (src rcv cmd : Int) (data : List Int) (s : State) : Host.Outcome State Fault Refusal :=
  codecStep .build
    (fun s =>
      match construct src rcv cmd data with
      | some p => finish .build .ok (.packet p) (loadTx p s)
      | none => finish .build .malformed .empty s) s

/-- ENCODE(sel), R123. -/
def execEncode (sel : Byte) (s : State) : Host.Outcome State Fault Refusal :=
  codecStep .encode (fun s => finishOption .encode ((selPacket sel s).map fun p => .bytes (encodePacket p)) s) s

/-- CHECKSUM_VALID(sel), R126: refused where `receivedChecksum` is absent, so for the TX packet too. -/
def execChecksumValid (sel : Byte) (s : State) : Host.Outcome State Fault Refusal :=
  codecStep .checksumValid
    (fun s => finishOption .checksumValid (((selPacket sel s).bind checksumValid).map .bit) s) s

/-- DESCRIBE(sel), R130. -/
def execDescribe (sel : Byte) (s : State) : Host.Outcome State Fault Refusal :=
  codecStep .describe (fun s => finishOption .describe ((selPacket sel s).map fun p => .record (describePacket p)) s) s

/-- INT_TO_3BYTES(value), R128. -/
def execIntTo3Bytes (value : Nat) (s : State) : Host.Outcome State Fault Refusal :=
  codecStep .intTo3Bytes
    (fun s =>
      let (b2, b1, b0) := intToThreeBytes value
      finish .intTo3Bytes .ok (.threeBytes b2 b1 b0) s) s

end Sys2Proof.Machine
end

