-- ==== Sys2Proof/Machine/Reserved.lean ====
section
/-! DEFINITION. The reserved codes 0x0D to 0x0F: each completes at once with ST_REFUSED, busy or not (R105). -/

namespace Sys2Proof.Machine

/-- The reserved code 0x0D (R105). -/
def execReserved0D (s : State) : Host.Outcome State Fault Refusal := .next (refuse .reserved s)

/-- The reserved code 0x0E (R105). -/
def execReserved0E (s : State) : Host.Outcome State Fault Refusal := .next (refuse .reserved s)

/-- The reserved code 0x0F (R105). -/
def execReserved0F (s : State) : Host.Outcome State Fault Refusal := .next (refuse .reserved s)

end Sys2Proof.Machine
end

