-- ==== Sys2Proof/Machine/Arbiter.lean ====
section
/-! DEFINITION. The bus arbiter (42_arbiter.md): TAKE_BUS, RELEASE_BUS, and the two interactions of TakeBus. -/

namespace Sys2Proof.Machine

/-- The operation after TakeBus returned: TAKE_BUS completes (R181); SEND and SEND_RECEIVE go on to the write, after the
DBG_TX record when DEBUG = 1 (R201, R212). -/
def afterTakeBus (op : OpName) (s : State) : State :=
  if op = .takeBus then complete op .ok .empty s
  else goto op (if s.debug then .debugTx else .write) { s with sstate := .write }

/-- One `CtsSample()` of TakeBus: `Closed` after a CLOSE ends the operation (R199), 1 samples again with no count and
no sleep, 0 leaves the loop (R181, R182). -/
def sampleStep (op : OpName) (s : State) : State :=
  if s.closing ≠ 0 then complete op .aborted .empty (emit (.cts .closed) s)
  else
    let (v, s1) := takeCts s
    let s2 := emit (.cts (.level v)) s1
    if v then s2 else goto op .assertRts s2

/-- `RTS <- 1`, the end of TakeBus (R181). -/
def assertStep (op : OpName) (s : State) : State := afterTakeBus op (setRts true s)

/-- TAKE_BUS, R181: with ARB = 0 it does nothing and completes (R184); otherwise its `CtsSample()`s and `RTS <- 1` are
the steps that follow. SSTATE stays S_IDLE, as R213 says of a TAKE_BUS of the host, against a word of R233 (DEDUCED, log
entry 28). -/
def execTakeBus (s : State) : Host.Outcome State Fault Refusal :=
  if admitted .takeBus s then
    .next (if s.arb then accept .takeBus .sample s else finish .takeBus .ok .empty s)
  else .next (refuse .takeBus s)

/-- RELEASE_BUS, R183 and R184. -/
def execReleaseBus (s : State) : Host.Outcome State Fault Refusal :=
  if admitted .releaseBus s then .next (finish .releaseBus .ok .empty (releaseBus s))
  else .next (refuse .releaseBus s)

end Sys2Proof.Machine
end

