-- ==== Sys2Proof/Machine/Reader.lean ====
section
/-! DEFINITION. The Packet Reader (41_reader.md): the transitions of RSTATE on a byte (R163), and READ_PACKET. -/

namespace Sys2Proof.Machine

/-- HEADER with a byte: LEN, SRC, RCV, CMD in that order (R154); a LEN below 3 goes back to SCANNING (R159); a LEN of 3
skips PAYLOAD (R156). -/
def headerByte (b : Byte) (s : State) : State :=
  match s.hidx.toNat with
  | 0 =>
    if b.toNat < Config.overhead then { s with rxLen := b, rstate := .scanning }
    else { s with rxLen := b, hidx := 1 }
  | 1 => { s with rx := { s.rx with src := b }, hidx := 2 }
  | 2 => { s with rx := { s.rx with rcv := b }, hidx := 3 }
  | _ =>
    { s with
      rx := { s.rx with cmd := b }
      hidx := 0
      rstate := if s.rxLen.toNat = Config.overhead then .checksum else .payload }

/-- PAYLOAD with a byte: store it, count it, and go on to CHECKSUM when RX_LEN - 3 have been collected (R155). -/
def payloadByte (b : Byte) (s : State) : State :=
  { s with
    rx := { s.rx with data := s.rx.data.set s.rx.cnt.toNat b, cnt := s.rx.cnt + 1 }
    rstate := if (s.rx.cnt + 1).toNat + Config.overhead = s.rxLen.toNat then .checksum else .payload }

/-- The Reader's transition on a byte (R163). In DONE no read is in progress. -/
def readerByte (b : Byte) (s : State) : State :=
  match s.rstate with
  | .scanning => if b = Config.som then { s with rstate := .header, hidx := 0 } else s
  | .header => headerByte b s
  | .payload => payloadByte b s
  | .checksum => { s with rx := { s.rx with chk := b, chkPresent := true }, rstate := .done }
  | .done => s

/-- The byte is dropped as noise (R152). -/
def isNoise (b : Byte) (s : State) : Bool := s.rstate = .scanning && b ≠ Config.som

/-- A `NoByte` ends the read: at once after SOM (R160), and while SCANNING when ABORT_ON_TIMEOUT = 1 (R153). -/
def silenceEndsRead (s : State) : Bool := s.rstate ≠ .scanning || s.abortOnTimeout

/-- READ_PACKET, R150: accepted with the session open and not busy (R162), it starts a read (R151); its `RxRead()`s are
the steps that follow (`readStep`). -/
def execReadPacket (s : State) : Host.Outcome State Fault Refusal :=
  if admitted .readPacket s then .next (startRead (accept .readPacket .read s)) else .next (refuse .readPacket s)

end Sys2Proof.Machine
end

