-- ==== Sys2Proof/Machine/Session.lean ====
section
/-! DEFINITION. The Session sequencer (43_session.md): OPEN, CLOSE, SEND, RECEIVE, SEND_RECEIVE, the echo suppressor, the
address filter and debug mode. -/

namespace Sys2Proof.Machine

/-- OPEN(local, ctrl, timeout), R196. The packet registers are not touched. -/
def execOpen (addr ctrl timeout : Byte) (s : State) : Host.Outcome State Fault Refusal :=
  if admitted .openSession s then
    .next
      (finish .openSession .ok .empty
        { setRts false
            { s with localAddr := addr, ctrl := ctrlOfOperand ctrl, readTimeout := timeout } with
          sstate := .idle, sess := .opened })
  else .next (refuse .openSession s)

/-- The body of one CLOSE, R198: RTS <- 0, the session ends, and the bytes the transport had not handed over are lost with
it. -/
def closeBody (s : State) : State :=
  finish .closeSession .ok .empty
    { setRts false s with sstate := .idle, sess := .closed, rxIn := [] }

/-- The bodies of that many CLOSEs, one after the other. -/
def closeEach : Nat → State → State
  | 0, s => s
  | n + 1, s => closeEach n (closeBody s)

/-- That many accepted CLOSEs proceed, none of them pending any more (R198, R199, log entry 16). -/
def proceedClose (n : Nat) (s : State) : State := closeEach n { s with closing := 0 }

/-- CLOSE, R198; while an operation runs it first waits for that operation to end, which its next `RxRead()` or
`CtsSample()` does by answering `Closed` (R199). With nothing running it proceeds at once, after those that are still
pending (log entry 16). -/
def execClose (s : State) : Host.Outcome State Fault Refusal :=
  if admitted .closeSession s then
    .next
      (if s.busy then { s with closing := s.closing + 1, result := .empty } else proceedClose (s.closing + 1) s)
  else .next (refuse .closeSession s)

/-- Send from its start to its first interaction with the line, the TX packet register already built (R201): TakeBus
samples CTS, or does nothing with ARB = 0 (R184). -/
def beginSend (op : OpName) (s : State) : State :=
  let s1 := accept op .sample { s with sstate := .take }
  if s.arb then s1 else afterTakeBus op s1

/-- SEND and SEND_RECEIVE: construction first, so that a refused packet touches nothing (R201, R240), then Send. -/
def execSendLike (op : OpName) (dst cmd : Int) (data : List Int) (s : State) : Host.Outcome State Fault Refusal :=
  if admitted op s then
    match construct (s.localAddr.toNat : Int) dst cmd data with
    | some p => .next (beginSend op (loadTx p s))
    | none => .next (finish op .malformed .empty s)
  else .next (refuse op s)

/-- SEND(dst, cmd, data), R201. -/
def execSend (dst cmd : Int) (data : List Int) (s : State) : Host.Outcome State Fault Refusal :=
  execSendLike .send dst cmd data s

/-- SEND_RECEIVE(dst, cmd, data), R210: Send, then Receive. -/
def execSendReceive (dst cmd : Int) (data : List Int) (s : State) : Host.Outcome State Fault Refusal :=
  execSendLike .sendReceive dst cmd data s

/-- Receive from its start to its first `RxRead()`: the echo step with ARB = 1, the response loop otherwise (R204,
R205). -/
def beginReceive (s : State) : State := startRead { s with sstate := if s.arb then .echo else .resp }

/-- RECEIVE, R204. -/
def execReceive (s : State) : Host.Outcome State Fault Refusal :=
  if admitted .receive s then .next (beginReceive (accept .receive .read s)) else .next (refuse .receive s)

/-- The DBG_TX record (R201, R212). -/
def debugTxStep (op : OpName) (s : State) : State :=
  goto op .write (emit (.dbg (.tx (describePacket s.txPacket))) s)

/-- `TxWrite(f)` of the whole frame (R62, R201); SEND completes, SEND_RECEIVE goes on to Receive (R210). -/
def writeStep (op : OpName) (s : State) : State :=
  let s1 := emit (.tx (encodePacket s.txPacket)) s
  if op = .sendReceive then goto op .read (beginReceive s1) else complete op .ok .empty s1

/-- Another `call ReadPacket()` of the response loop (R207). -/
def readAgain (op : OpName) (s : State) : State := goto op .read (startRead s)

/-- The Reader handed over a Packet: READ_PACKET completes with it (R158); in the echo step it is taken as the echo,
whatever it is (R205); in the response loop it is dropped unless it is addressed to LOCAL_ADDR (R207), and otherwise it
is the result (R208). -/
def packetRead (op : OpName) (s : State) : State :=
  if op = .readPacket then complete op .ok (.packet s.rxPacket) s
  else if s.sstate = .echo then goto op .release s
  else if s.rx.rcv = s.localAddr then complete op .ok (.packet s.rxPacket) s
  else if s.debug then goto op .debugIgnored s
  else readAgain op s

/-- The read ended with no packet: ST_NO_PACKET for READ_PACKET, for the echo step (RTS untouched, R206) and for the
response loop (R209); the packet fields are unspecified from here on (R28, D28). -/
def noPacketRead (op : OpName) (s : State) : State := complete op .noPacket .empty (forgetRx s)

/-- One `RxRead()` and what follows it up to the next interaction (R150): `Closed` after a CLOSE ends the operation and
outranks a waiting byte (R199, R240). Its event `Rx(Closed)` is the model's choice (DESIGN CHOICE, log entry 29). -/
def readStep (op : OpName) (s : State) : State :=
  if s.closing ≠ 0 then complete op .aborted .empty (emit (.rx .closed) s)
  else
    let (a, s1) := takeArrival s
    match a with
    | .silence =>
      let s2 := emit (.rx .noByte) s1
      if silenceEndsRead s2 then noPacketRead op s2 else s2
    | .byte b =>
      let s2 := emit (.rx (.byte b)) s1
      if isNoise b s2 then (if s2.debug then goto op (.debugNoise b) s2 else s2)
      else
        let s3 := readerByte b s2
        if s3.rstate = .done then (if s3.debug then goto op .debugRx s3 else packetRead op s3) else s3

/-- The DBG_NOISE record, then the next `RxRead()` (R152). -/
def debugNoiseStep (op : OpName) (b : Byte) (s : State) : State := goto op .read (emit (.dbg (.noise b)) s)

/-- The DBG_RX record, then the end of the read (R158). -/
def debugRxStep (op : OpName) (s : State) : State :=
  packetRead op (emit (.dbg (.rx (describePacket s.rxPacket))) s)

/-- The DBG_IGNORED marker, then the next packet (R207). -/
def debugIgnoredStep (op : OpName) (s : State) : State := readAgain op (emit (.dbg .ignored) s)

/-- ReleaseBus after the echo, then the response loop (R204, R205). -/
def releaseStep (op : OpName) (s : State) : State := readAgain op { releaseBus s with sstate := .resp }

end Sys2Proof.Machine
end

