-- ==== Sys2Proof/Machine/Wire.lean ====
section
/-! DEFINITION. FRAME, the wire frame of R90. It is no host command: a frame comes in on the receive line, and its bytes
wait in the transport, in arrival order, until the Reader reads them (R63, R67, log entry 8). -/

namespace Sys2Proof.Machine

/-- The bytes of a frame on the wire, SOM first and CHK last (R90). -/
def frameBytes (len src rcv cmd : Byte) (payload : List Byte) (chk : Byte) : List Byte :=
  [Config.som, len, src, rcv, cmd] ++ payload ++ [chk]

/-- FRAME: the frame's bytes arrive (R63, R90). No field of it is checked here: a LEN below 3 is for the Reader to
reject (R159), and a wrong CHK is never rejected (R98). -/
def execFrame (len src rcv cmd : Byte) (payload : List Byte) (chk : Byte) (s : State) :
    Host.Outcome State Fault Refusal :=
  .next (deliver ((frameBytes len src rcv cmd payload chk).map .byte) s)

end Sys2Proof.Machine
end

