-- ==== Sys2Proof/Machine/Dispatch.lean ====
section
/-! DEFINITION. One arm per constructor of `Instr`: the operation is presented to the block. -/

namespace Sys2Proof.Machine

def exec (i : Instr) (s : State) : Host.Outcome State Fault Refusal :=
  match i with
  | .openSession addr ctrl timeout => Sys2Proof.Machine.execOpen addr ctrl timeout s
  | .closeSession => Sys2Proof.Machine.execClose s
  | .build src rcv cmd data => Sys2Proof.Machine.execBuild src rcv cmd data s
  | .encode sel => Sys2Proof.Machine.execEncode sel s
  | .checksumValid sel => Sys2Proof.Machine.execChecksumValid sel s
  | .describe sel => Sys2Proof.Machine.execDescribe sel s
  | .intTo3Bytes value => Sys2Proof.Machine.execIntTo3Bytes value s
  | .readPacket => Sys2Proof.Machine.execReadPacket s
  | .takeBus => Sys2Proof.Machine.execTakeBus s
  | .releaseBus => Sys2Proof.Machine.execReleaseBus s
  | .send dst cmd data => Sys2Proof.Machine.execSend dst cmd data s
  | .receive => Sys2Proof.Machine.execReceive s
  | .sendReceive dst cmd data => Sys2Proof.Machine.execSendReceive dst cmd data s
  | .reserved0D => Sys2Proof.Machine.execReserved0D s
  | .reserved0E => Sys2Proof.Machine.execReserved0E s
  | .reserved0F => Sys2Proof.Machine.execReserved0F s
  | .frame len src rcv cmd payload chk => Sys2Proof.Machine.execFrame len src rcv cmd payload chk s

end Sys2Proof.Machine
end

