-- ==== Sys2Proof/Machine/Engine.lean ====
section
/-! DEFINITION. One micro-step of the engine (R6): the running operation's next interaction with the line. -/

namespace Sys2Proof.Machine

/-- The next interaction of a running operation. -/
def taskStep (t : Task) (s : State) : State :=
  match t.point with
  | .sample => sampleStep t.op s
  | .assertRts => assertStep t.op s
  | .debugTx => debugTxStep t.op s
  | .write => writeStep t.op s
  | .read => readStep t.op s
  | .debugNoise b => debugNoiseStep t.op b s
  | .debugRx => debugRxStep t.op s
  | .release => releaseStep t.op s
  | .debugIgnored => debugIgnoredStep t.op s

/-- One micro-step: the running operation goes on; with none running, an accepted CLOSE proceeds (R199); otherwise the
block is idle and holds its state (R6, R250). -/
def engineStep (s : State) : State :=
  match s.running with
  | some t => taskStep t s
  | none => if s.closing ≠ 0 then proceedClose s.closing s else s

end Sys2Proof.Machine
end

