-- ==== Sys2Proof/WellFormed.lean ====
section
/-! DEFINITION. Which operations have an encoding of their own that the spec does not reserve: byte operands in range,
`sel` 0 or 1 (R105), a payload whose count fits the byte `n` (R103), a value of 32 bits (R128), and a frame whose LEN
counts its payload and is not below 3 (R92, R97). An operation that is not well-formed still has a meaning where the
spec gives it one (construction refuses it, R121; a reserved `sel` completes ST_REFUSED, R105). -/

namespace Sys2Proof

/-- The value is one of 0..255 (R9). -/
def isByte (x : Int) : Bool := decide (0 ≤ x) && decide (x ≤ 255)

/-- Every element is a byte value and the count fits the byte `n` of the command word (R103). -/
def isData (data : List Int) : Bool := data.all isByte && decide (data.length ≤ 255)

/-- `sel` selects the TX packet register (0) or the RX packet register (1); 2 to 255 are reserved (R103, R105). -/
def isSel (sel : Byte) : Bool := decide (sel.toNat ≤ 1)

/-- The operation has an unreserved encoding (R97, R103, R105). -/
def Instr.wellFormed : Instr → Bool
  | .openSession _ _ _ => true
  | .closeSession => true
  | .build src rcv cmd data => isByte src && isByte rcv && isByte cmd && isData data
  | .encode sel => isSel sel
  | .checksumValid sel => isSel sel
  | .describe sel => isSel sel
  | .intTo3Bytes value => decide (value < 2 ^ 32)
  | .readPacket => true
  | .takeBus => true
  | .releaseBus => true
  | .send dst cmd data => isByte dst && isByte cmd && isData data
  | .receive => true
  | .sendReceive dst cmd data => isByte dst && isByte cmd && isData data
  | .reserved0D => true
  | .reserved0E => true
  | .reserved0F => true
  | .frame len _ _ _ payload _ => decide (len.toNat = Config.overhead + payload.length)

end Sys2Proof
end

