-- ==== Sys2Proof/Decode.lean ====
section
/-! DEFINITION. Decoding and encoding of the two formats of R90 and R103: the host command word (first byte OPC) and
the wire frame (first byte SOM). Decoding is total on any bytes, rejects by name, and answers the operation with the
bytes left over. -/

namespace Sys2Proof

/-- Why a byte sequence is no command or frame (R105). -/
inductive DecodeError
  /-- No byte at all. -/
  | empty
  /-- OPC has one of bits 7:4 set (R102, R105). -/
  | reservedHighBits
  /-- The first byte of a frame is not SOM (R90). -/
  | noStartByte
  /-- Fewer bytes than the format needs (R105; for the fixed-length commands see log entry 11). -/
  | short
  deriving DecidableEq, Repr

/-- What a decoder answers: the operation and the bytes after it, or why there is none. -/
abbrev Decoded := Except DecodeError (Instr × List Byte)

/-- A byte of the command word as the abstract operand it stands for (R101). -/
def operandOfByte (b : Byte) : Int := (b.toNat : Int)

/-- The byte that carries an operand in the command word (R103). -/
def byteOfOperand (x : Int) : Byte := BitVec.ofInt 8 x

/-- The first `n` bytes and the rest, or none when there are fewer (R105). -/
def splitBytes : Nat → List Byte → Option (List Byte × List Byte)
  | 0, rest => some ([], rest)
  | _ + 1, [] => none
  | n + 1, b :: rest =>
    match splitBytes n rest with
    | some (front, back) => some (b :: front, back)
    | none => none

/-- The operands `n d[0] .. d[n-1]` at the end of a variable-length command (R102, R103): the payload and the bytes
after it, or none when there are fewer bytes than `n` says (R105). -/
def decodeData : List Byte → Option (List Int × List Byte)
  | [] => none
  | n :: rest =>
    match splitBytes n.toNat rest with
    | some (data, rest) => some (data.map operandOfByte, rest)
    | none => none

/-- OPEN: `local ctrl timeout` (R103). -/
def decodeOpen : List Byte → Decoded
  | addr :: ctrl :: timeout :: rest => .ok (.openSession addr ctrl timeout, rest)
  | _ => .error .short

/-- BUILD: `src rcv cmd n d[0] .. d[n-1]` (R103). -/
def decodeBuild : List Byte → Decoded
  | src :: rcv :: cmd :: rest =>
    match decodeData rest with
    | some (data, rest) => .ok (.build (operandOfByte src) (operandOfByte rcv) (operandOfByte cmd) data, rest)
    | none => .error .short
  | _ => .error .short

/-- A command whose one operand byte is `sel` (R103). -/
def decodeSel (op : Byte → Instr) : List Byte → Decoded
  | sel :: rest => .ok (op sel, rest)
  | _ => .error .short

/-- The value of INT_TO_3BYTES, `v3 v2 v1 v0`, most significant byte first (R128). -/
def valueOfBytes (v3 v2 v1 v0 : Byte) : Nat := v3.toNat * 2 ^ 24 + v2.toNat * 2 ^ 16 + v1.toNat * 2 ^ 8 + v0.toNat

/-- INT_TO_3BYTES: `v3 v2 v1 v0` (R103, R128). -/
def decodeInt : List Byte → Decoded
  | v3 :: v2 :: v1 :: v0 :: rest => .ok (.intTo3Bytes (valueOfBytes v3 v2 v1 v0), rest)
  | _ => .error .short

/-- SEND and SEND_RECEIVE: `dst cmd n d[0] .. d[n-1]` (R103). -/
def decodeSend (op : Int → Int → List Int → Instr) : List Byte → Decoded
  | dst :: cmd :: rest =>
    match decodeData rest with
    | some (data, rest) => .ok (op (operandOfByte dst) (operandOfByte cmd) data, rest)
    | none => .error .short
  | _ => .error .short

/-- The operand bytes after OPC, by the operation table of R103. OPC above 0x0F has one of bits 7:4 set (R102). -/
def decodeOperands (opc : Nat) (ops : List Byte) : Decoded :=
  match opc with
  | 0x00 => decodeOpen ops
  | 0x01 => .ok (.closeSession, ops)
  | 0x02 => decodeBuild ops
  | 0x03 => decodeSel .encode ops
  | 0x04 => decodeSel .checksumValid ops
  | 0x05 => decodeSel .describe ops
  | 0x06 => decodeInt ops
  | 0x07 => .ok (.readPacket, ops)
  | 0x08 => .ok (.takeBus, ops)
  | 0x09 => .ok (.releaseBus, ops)
  | 0x0A => decodeSend .send ops
  | 0x0B => .ok (.receive, ops)
  | 0x0C => decodeSend .sendReceive ops
  | 0x0D => .ok (.reserved0D, ops)
  | 0x0E => .ok (.reserved0E, ops)
  | 0x0F => .ok (.reserved0F, ops)
  | _ => .error .reservedHighBits

/-- A host command word (R101 to R103). -/
def decodeCommand : List Byte → Decoded
  | [] => .error .empty
  | opc :: ops => decodeOperands opc.toNat ops

/-- A wire frame `SOM LEN SRC RCV CMD payload CHK` with LEN - 3 payload bytes (R90). A LEN below 3 is an illegal frame
(R97, refused by `Instr.wellFormed`); its bytes are read as one with no payload, and it is the Reader that rejects them
(R159; log entry 9). -/
def decodeFrame : List Byte → Decoded
  | som :: len :: src :: rcv :: cmd :: rest =>
    if som ≠ Config.som then .error .noStartByte
    else
      match splitBytes (len.toNat - Config.overhead) rest with
      | some (payload, chk :: rest) => .ok (.frame len src rcv cmd payload chk, rest)
      | _ => .error .short
  | [] => .error .empty
  | _ => .error .short

/-- Either format, told apart by the first byte: SOM begins a frame (R90) and is no operation code (R102). -/
def decode : List Byte → Decoded
  | [] => .error .empty
  | b :: rest => if b = Config.som then decodeFrame (b :: rest) else decodeCommand (b :: rest)

/-- The operands `n d[0] .. d[n-1]` (R103). -/
def encodeData (data : List Int) : List Byte := BitVec.ofNat 8 data.length :: data.map byteOfOperand

/-- The four bytes of an INT_TO_3BYTES value, most significant first (R128). -/
def bytesOfValue (value : Nat) : List Byte :=
  [BitVec.ofNat 8 (value >>> 24), BitVec.ofNat 8 (value >>> 16), BitVec.ofNat 8 (value >>> 8), BitVec.ofNat 8 value]

/-- The bytes of a well-formed operation: the command word of R103, or the wire frame of R90. -/
def encode : Instr → List Byte
  | .openSession addr ctrl timeout => [0x00, addr, ctrl, timeout]
  | .closeSession => [0x01]
  | .build src rcv cmd data =>
    0x02 :: byteOfOperand src :: byteOfOperand rcv :: byteOfOperand cmd :: encodeData data
  | .encode sel => [0x03, sel]
  | .checksumValid sel => [0x04, sel]
  | .describe sel => [0x05, sel]
  | .intTo3Bytes value => 0x06 :: bytesOfValue value
  | .readPacket => [0x07]
  | .takeBus => [0x08]
  | .releaseBus => [0x09]
  | .send dst cmd data => 0x0A :: byteOfOperand dst :: byteOfOperand cmd :: encodeData data
  | .receive => [0x0B]
  | .sendReceive dst cmd data => 0x0C :: byteOfOperand dst :: byteOfOperand cmd :: encodeData data
  | .reserved0D => [0x0D]
  | .reserved0E => [0x0E]
  | .reserved0F => [0x0F]
  | .frame len src rcv cmd payload chk => Config.som :: len :: src :: rcv :: cmd :: (payload ++ [chk])

/-- The longest command word: BUILD with n = 255 (R103). No frame is longer (R94). -/
def longestWord : Nat := 260

/-- The bytes of a table word, that many of them: the first byte is at bit 0, and every byte past `nbits` is 0. -/
def tableBytes : Nat → Nat → Nat → List Byte
  | 0, _, _ => []
  | count + 1, nbits, w => (if 0 < nbits then BitVec.ofNat 8 w else 0) :: tableBytes count (nbits - 8) (w >>> 8)

/-- The bytes of a table word of `nbits` bits, up to the longest instruction. -/
def bytesOfTableWord (nbits w : Nat) : List Byte := tableBytes longestWord nbits w

/-- The operation the decoder reads from a table word of `nbits` bits. -/
def decodeTableWord (nbits w : Nat) : Option Instr :=
  match decode (bytesOfTableWord nbits w) with
  | .ok (i, _) => some i
  | .error _ => none

end Sys2Proof
end

