-- ==== Sys2Proof/Machine/Fetch.lean ====
section
/-! DEFINITION. What the next step has to do: whether something is presented to the block now (log entry 1), and what a
presented command word or a run of bytes on the receive line means. -/

namespace Sys2Proof.Machine

/-- A stimulus as the block takes it. A command word is decoded (R101 to R103); one that decodes to no operation is a
reserved command (R105), and bytes after the operands are not looked at (log entry 10). Bytes on the receive line that
are exactly one frame are that FRAME; any other bytes arrive as they are (R38, R63). -/
def interpret : Stimulus → Fetched
  | .command bytes =>
    match decodeCommand bytes with
    | .ok (i, _) => .operation i
    | .error _ => .reservedCommand
  | .call op => .operation op
  | .wire bytes =>
    match decodeFrame bytes with
    | .ok (i, []) => .operation i
    | _ => .arrivals (bytes.map .byte)
  | .silence => .arrivals [.silence]
  | .reset => .resetInput

/-- The operations that the host issues and the block executes (R103). A reserved code and a reserved `sel` are refused at
once, whatever the block is doing (R105), and FRAME comes in on the receive line. -/
def issuedByHost : Instr → Bool
  | .encode sel | .checksumValid sel | .describe sel => sel.toNat < 2
  | .openSession .. | .closeSession | .build .. | .intTo3Bytes .. | .readPacket | .takeBus | .releaseBus | .send ..
  | .receive | .sendReceive .. => true
  | .reserved0D | .reserved0E | .reserved0F | .frame .. => false

/-- Operations run in the order the host issued them (R6, R73): one that is issued while an accepted CLOSE is the next to
proceed waits until that CLOSE has completed (R199, D14; log entry 16). -/
def waitsForClose (what : Fetched) (s : State) : Bool :=
  match what with
  | .operation i => issuedByHost i && s.closeIsNext
  | .reservedCommand | .arrivals _ | .resetInput | .engine => false

/-- The first input, if it is due now and no earlier CLOSE comes before it, or else the engine goes on (log entry 1). An
input that waits for a number of steps counts this one. -/
def fetch (s : State) : Fetched × State :=
  match s.inputs with
  | [] => (.engine, s)
  | input :: rest =>
    match input.timing with
    | .after 0 =>
      if waitsForClose (interpret input.what) s then (.engine, s)
      else (interpret input.what, { s with inputs := rest })
    | .after (n + 1) => (.engine, { s with inputs := { input with timing := .after n } :: rest })
    | .onIdle => if s.occupied then (.engine, s) else (interpret input.what, { s with inputs := rest })

/-- How many bytes a frame takes on the wire, from its bytes: LEN + 3 (R96), and 6 for a LEN below 3, which the decoder
reads with no payload. -/
def frameLength (bytes : List Byte) : Nat := 2 * Config.overhead + ((bytes.getD 1 0).toNat - Config.overhead)

/-- The stimulus that a table word stands for: a frame arrives on the receive line, a command word is presented by the
host. -/
def stimulusOfWord (bytes : List Byte) : Stimulus :=
  if bytes.head? = some Config.som then .wire (bytes.take (frameLength bytes)) else .command bytes

end Sys2Proof.Machine
end

