-- ==== Sys2Proof/Machine/Step.lean ====
section
/-! DEFINITION. One step of the machine: what is presented now runs, and otherwise the engine makes one micro-step. -/

namespace Sys2Proof.Machine

/-- One step (R6). -/
def step (s : State) : Host.Outcome State Fault Refusal :=
  match fetch s with
  | (.operation i, s') => exec i s'
  | (.reservedCommand, s') => .next (refuse .reserved s')
  | (.arrivals a, s') => .next (deliver a s')
  | (.resetInput, s') => .next (resetBlock s')
  | (.engine, s') => .next (engineStep s')

/-- The state in which the very next step takes the instruction of a table word: it is presented at once, before any
other input, and no accepted CLOSE comes before it (log entry 2). -/
def State.withFetchWord (s : State) (nbits w : Nat) : State :=
  { s with
    closing := if s.closeIsNext then 0 else s.closing
    inputs := { timing := .after 0, what := stimulusOfWord (bytesOfTableWord nbits w) } :: s.inputs }

end Sys2Proof.Machine
end

