-- ==== Sys2Proof/Safety.lean ====
section
/-! DEFINITION. The terms the statements use: the invariant of the machine, when the block accepts commands, and the
frame of a packet on the wire with any checksum byte. -/

namespace Sys2Proof.Machine

/-- No operation is running and no CLOSE is pending. -/
def State.quiet (s : State) : Prop := s.running = none ∧ s.closing = 0

/-- The session is open, and the block is idle with nothing further to be presented: what the host sees before it
issues an operation on the line (R200, R274). -/
structure State.ready (s : State) : Prop where
  opened : s.sess = .opened
  notRunning : s.running = none
  notClosing : s.closing = 0
  noInputs : s.inputs = []

/-- The operation is one that reads, at a place where its reads belong: READ_PACKET outside the sequencer, RECEIVE and
SEND_RECEIVE in the echo step of an arbitrated session or, with the bus released, in the response loop (R33, R204). -/
def readingFits (op : OpName) (s : State) : Prop :=
  (op = .readPacket ∧ s.sstate = .idle) ∨
    ((op = .receive ∨ op = .sendReceive) ∧
      ((s.sstate = .echo ∧ s.arb = true) ∨ (s.sstate = .resp ∧ s.rts = false)))

/-- The operation is one that sends. -/
def sendLike (op : OpName) : Prop := op = .send ∨ op = .sendReceive

/-- A running operation's place agrees with SSTATE, RSTATE, CTRL and the operation (R163, R213). -/
def taskFits (t : Task) (s : State) : Prop :=
  match t.point with
  | .sample | .assertRts =>
    s.arb = true ∧ ((t.op = .takeBus ∧ s.sstate = .idle) ∨ (sendLike t.op ∧ s.sstate = .take))
  | .debugTx => s.debug = true ∧ sendLike t.op ∧ s.sstate = .write
  | .write => sendLike t.op ∧ s.sstate = .write
  | .read => readingFits t.op s ∧ s.rstate ≠ .done
  | .debugNoise _ => s.debug = true ∧ readingFits t.op s ∧ s.rstate = .scanning
  | .debugRx => s.debug = true ∧ readingFits t.op s ∧ s.rstate = .done
  | .release => (t.op = .receive ∨ t.op = .sendReceive) ∧ s.sstate = .echo ∧ s.arb = true ∧ s.rstate = .done
  | .debugIgnored =>
    s.debug = true ∧ (t.op = .receive ∨ t.op = .sendReceive) ∧ s.sstate = .resp ∧ s.rts = false ∧ s.rstate = .done

/-- The Reader's registers fit RSTATE (R151 to R157): what has been counted, and what LEN allows. -/
def readerFits (s : State) : Prop :=
  match s.rstate with
  | .scanning => s.rx.cnt = 0 ∧ s.hidx = 0
  | .header => s.rx.cnt = 0 ∧ (s.hidx ≠ 0 → Config.overhead ≤ s.rxLen.toNat)
  | .payload => s.hidx = 0 ∧ s.rx.cnt.toNat + Config.overhead < s.rxLen.toNat
  | .checksum => s.hidx = 0 ∧ s.rxLen.toNat = s.rx.cnt.toNat + Config.overhead
  | .done => s.hidx = 0 ∧ s.rxLen.toNat = s.rx.cnt.toNat + Config.overhead

/-- The invariant of the machine: it holds at reset and every step keeps it. -/
structure State.Inv (s : State) : Prop where
  /-- CTRL bits 7:3 read as 0 (R22). -/
  ctrlReserved : s.ctrl &&& 0xF8 = 0
  /-- TX_DATA is a buffer of 252 bytes (R27). -/
  txBuffer : s.tx.data.length = Config.maxPayload
  /-- TX_CNT is at most 252 (R27, R30). -/
  txCount : s.tx.cnt.toNat ≤ Config.maxPayload
  /-- RX_DATA is a buffer of 252 bytes (R28). -/
  rxBuffer : s.rx.data.length = Config.maxPayload
  /-- The Reader's registers fit its state (R154 to R157). -/
  reader : readerFits s
  /-- RX_CHK_PRESENT is set exactly in DONE (R28, R29). -/
  presence : s.rx.chkPresent = true ↔ s.rstate = .done
  /-- RTS is asserted only in an open arbitrated session (R184, R186). -/
  rtsHeld : s.rts = true → s.sess = .opened ∧ s.arb = true
  /-- An operation runs only in an open session (R200). -/
  busyOpen : s.running ≠ none → s.sess = .opened
  /-- A CLOSE is pending only in an open session (R199). -/
  closingOpen : s.closing ≠ 0 → s.sess = .opened
  /-- The sequencer is idle when no operation runs (R33). -/
  idleSequencer : s.running = none → s.sstate = .idle
  /-- RESULT is empty while an operation runs (R42). -/
  busyEmpty : s.running ≠ none → s.result = .empty
  /-- RESULT is empty after any status but ST_OK (R42). -/
  failedEmpty : s.lastSt ≠ .ok → s.result = .empty
  /-- The running operation's place fits the registers (R163, R213). -/
  task : ∀ t, s.running = some t → taskFits t s

/-- The state after an operation ended: LAST_ST, RESULT and the completion record, and nothing else (R24, R42, R44). -/
def State.ended (s : State) (op : OpName) (st : Status) (res : Result) : State :=
  { s with lastSt := st, result := res, history := s.history ++ [.done op st res] }

/-- The state with events added to its history and nothing else changed (R44). -/
def State.withEvents (s : State) (events : List Event) : State := { s with history := s.history ++ events }

/-- The events of that many CLOSEs, each deasserting RTS and completing ST_OK (R198). -/
def closeEvents (n : Nat) : List Event := (List.replicate n [.rts false, .done .closeSession .ok .empty]).flatten

/-- Exactly `k` steps lead from `s` to `t`, each of them a next state. -/
def Runs (k : Nat) (s t : State) : Prop := Host.Core.run Sys2Proof.core k s = .next t

/-- The operands of construction are byte values and the payload fits (R121). -/
def goodPacket (header data : List Int) : Prop := (∀ x ∈ header ++ data, 0 ≤ x ∧ x ≤ 255) ∧ data.length ≤ 252

/-- The packet carries exactly these integers, without a received checksum (R121). -/
structure Packet.Carries (p : Packet) (src rcv cmd : Int) (data : List Int) : Prop where
  src : (p.src.toNat : Int) = src
  rcv : (p.rcv.toNat : Int) = rcv
  cmd : (p.cmd.toNat : Int) = cmd
  data : p.data.map (fun b => (b.toNat : Int)) = data
  absent : p.receivedChecksum = none

/-- The TX packet register holds the packet, all fields together, and the buffer past the payload is as before (R27,
R121). -/
structure TxReg.Holds (r : TxReg) (p : Packet) (before : TxReg) : Prop where
  src : r.src = p.src
  rcv : r.rcv = p.rcv
  cmd : r.cmd = p.cmd
  cnt : r.cnt.toNat = p.data.length
  payload : ∀ i, i < p.data.length → r.data[i]? = p.data[i]?
  past : ∀ i, p.data.length ≤ i → r.data[i]? = before.data[i]?

/-- The bytes on the wire of a frame that carries the packet's header and payload and ends in the given byte, which need
not be its checksum (R90, R98). -/
def wireFrame (p : Packet) (last : Byte) : List Byte := [Config.som, p.len, p.src, p.rcv, p.cmd] ++ p.data ++ [last]

/-- The bytes of several frames, one after the other, each with its last byte. -/
def wireFrames (frames : List (Packet × Byte)) : List Byte := frames.flatMap fun f => wireFrame f.1 f.2

/-- The bytes as arrivals in the transport's queue. -/
def arriving (bytes : List Byte) : List Arrival := bytes.map .byte

/-- The `Rx` events of reading these bytes (R44). -/
def reads (bytes : List Byte) : List Event := bytes.map fun b => .rx (.byte b)

/-- The packet as the Reader hands it over when the frame's last byte was `last` (R158). -/
def Packet.received (p : Packet) (last : Byte) : Packet := { p with receivedChecksum := some last }

/-- The events of reading a whole frame: its bytes, and with DEBUG = 1 the DBG_RX record (R158, R212). -/
def frameEvents (debug : Bool) (p : Packet) (last : Byte) : List Event :=
  reads (wireFrame p last) ++ if debug then [.dbg (.rx (describePacket (p.received last)))] else []

/-- The events of frames that the address filter drops, with DEBUG = 1 each marked DBG_IGNORED (R207, R212). -/
def ignoredEvents (debug : Bool) (frames : List (Packet × Byte)) : List Event :=
  frames.flatMap fun f => frameEvents debug f.1 f.2 ++ if debug then [.dbg .ignored] else []

end Sys2Proof.Machine
end

