-- ==== Sys2Proof/Certificates/Slice0/Obligations.lean ====
section
/-! DEFINITION. The statements for the provers. Each docstring names the rules it formalises. A next state is written
out in full wherever the rules give it, so that each statement is also the frame of what it states. -/

open Sys2Proof Sys2Proof.Machine

/-! ## Reset, the invariant, the step -/

/-- R45: every reset value the spec gives. -/
def Obligations.ResetLeavesTheStatedValues : Prop :=
  State.reset.localAddr = 0x20 ∧ State.reset.ctrl = 0 ∧ State.reset.readTimeout = 1 ∧ State.reset.sess = .closed ∧
    State.reset.busy = false ∧ State.reset.lastSt = .ok ∧ State.reset.rts = false ∧
    State.reset.tx.src = 0 ∧ State.reset.tx.rcv = 0 ∧ State.reset.tx.cmd = 0 ∧ State.reset.tx.cnt = 0 ∧
    State.reset.rx.chkPresent = false ∧ State.reset.rx.cnt = 0 ∧ State.reset.rstate = .scanning ∧
    State.reset.hidx = 0 ∧ State.reset.sstate = .idle ∧ State.reset.result = .empty ∧
    State.reset.debugOutput = [] ∧ State.reset.txStream = [] ∧ State.reset.history = []

/-- R261: reset during an operation abandons it: no completion and no event, RTS goes to 0, and what was written is not
recalled. Every register takes its reset value (R260). Two things in it are the model's choice, not the spec's: TX_DATA,
RX_SRC, RX_RCV, RX_CMD, RX_DATA, RX_CHK and RX_LEN, which R45 leaves at any value, are at the zeros of log entry 5; and
the outside, and what has happened, stay (log entry 21). -/
def Obligations.ResetAbandonsTheRunningOperation : Prop :=
  ∀ (s : State) (later : List Input), s.inputs = { timing := .after 0, what := .reset } :: later →
    ∃ t, step s = .next t ∧ t.running = none ∧ t.closing = 0 ∧ t.sess = .closed ∧ t.sstate = .idle ∧
      t.rts = false ∧ t.history = s.history ∧ t.txStream = s.txStream ∧
      t = { State.reset with
            rxIn := s.rxIn, ctsIn := s.ctsIn, draws := s.draws, inputs := later, history := s.history }

/-- The invariant holds at reset (its clauses of log entries 13 and 28 included, which are the model's choices). -/
def Obligations.ResetHasTheInvariant : Prop := State.reset.Inv

/-- Every step keeps the invariant, from every state that has it. Two of its clauses are the model's choices, not the
spec's words: RESULT is empty while an operation runs (`busyEmpty`, log entry 13), and SSTATE is S_IDLE while a TAKE_BUS
of the host polls (`taskFits`, log entry 28). -/
def Obligations.EveryStepKeepsTheInvariant : Prop :=
  ∀ s t : State, s.Inv → step s = .next t → t.Inv

/-- R244: the block has no dead state: every step has a next state. -/
def Obligations.EveryStepHasANextState : Prop := ∀ s : State, ∃ t, step s = .next t

/-- A step runs the operation that is presented now: a command word that decodes to it, an abstract operation, or a
frame that comes in; it is presented after its number of steps, or when nothing runs (R101, R274). An operation of the
host that is issued where an accepted CLOSE is the next to proceed waits for that CLOSE: `AnEarlierCloseRunsFirst`. When
an operation is presented is the model's choice (log entry 1), and so is it that bytes after a command word's operands are
ignored: the spec does not say what they do (log entry 10). -/
def Obligations.StepRunsThePresentedOperation : Prop :=
  ∀ (s : State) (input : Input) (later : List Input) (i : Instr), s.inputs = input :: later →
    ((input.timing = .after 0 ∧ (s.running ≠ none ∨ s.closing = 0 ∨ issuedByHost i = false)) ∨
      (input.timing = .onIdle ∧ s.quiet)) →
    ((∃ bytes surplus, input.what = .command bytes ∧ decodeCommand bytes = .ok (i, surplus)) ∨
      input.what = .call i ∨ ∃ bytes, input.what = .wire bytes ∧ decodeFrame bytes = .ok (i, [])) →
    step s = exec i { s with inputs := later }

/-- With nothing presented now the step is one micro-step of the engine, and an idle block holds its state (R6, R250). -/
def Obligations.StepWithNothingPresentedIsTheEngine : Prop :=
  ∀ s : State,
    (s.inputs = [] → step s = .next (engineStep s)) ∧
    (∀ n what later, s.inputs = { timing := .after (n + 1), what := what } :: later →
      step s = .next (engineStep { s with inputs := { timing := .after n, what := what } :: later })) ∧
    (∀ what later, s.inputs = { timing := .onIdle, what := what } :: later → ¬ s.quiet →
      step s = .next (engineStep s)) ∧
    (s.inputs = [] → s.quiet → step s = .next s)

/-- R63: bytes that come in on the receive line, a frame or not, wait in the transport behind those already there, and
nothing else changes. -/
def Obligations.WireBytesArriveInOrder : Prop :=
  ∀ (s : State) (bytes : List Byte) (later : List Input),
    s.inputs = { timing := .after 0, what := .wire bytes } :: later →
    step s = .next { s with inputs := later, rxIn := s.rxIn ++ arriving bytes }

/-- R105: every reserved command encoding completes at once with ST_REFUSED, whatever the block is doing, changes
nothing but LAST_ST and RESULT (emptied), and touches no line. -/
def Obligations.ReservedCommandsAreRefused : Prop :=
  ∀ (s : State) (bytes : List Byte) (later : List Input),
    s.inputs = { timing := .after 0, what := .command bytes } :: later →
    ((∃ opc ops, bytes = opc :: ops ∧ (13 ≤ opc.toNat)) ∨
      (∃ opc sel ops, bytes = opc :: sel :: ops ∧ (opc = 0x03 ∨ opc = 0x04 ∨ opc = 0x05) ∧ 2 ≤ sel.toNat) ∨
      (∃ src rcv cmd n data, bytes = 0x02 :: src :: rcv :: cmd :: n :: data ∧ data.length < n.toNat) ∨
      (∃ opc dst cmd n data, bytes = opc :: dst :: cmd :: n :: data ∧ (opc = 0x0A ∨ opc = 0x0C) ∧
        data.length < n.toNat)) →
    ∃ op, step s = .next (({ s with inputs := later } : State).ended op .refused .empty)

/-- A command word that decodes to nothing is refused, the short fixed-length ones among them (log entries 11 and
12). -/
def Obligations.UndecodableCommandsAreRefused : Prop :=
  ∀ (s : State) (bytes : List Byte) (later : List Input) (e : DecodeError),
    s.inputs = { timing := .after 0, what := .command bytes } :: later → decodeCommand bytes = .error e →
    step s = .next (({ s with inputs := later } : State).ended .reserved .refused .empty)

/-! ## Encodings -/

/-- R90, R103: decoding the encoding of a well-formed operation gives the operation back, with no byte left over. -/
def Obligations.DecodeOfEncode : Prop := ∀ i : Instr, i.wellFormed = true → decode (encode i) = .ok (i, [])

/-- R90, R103: whatever decodes is the encoding of what it decodes to, followed by the bytes left over. -/
def Obligations.EncodeOfDecode : Prop :=
  ∀ (bytes rest : List Byte) (i : Instr), decode bytes = .ok (i, rest) → bytes = encode i ++ rest

/-- Command words and frames of 95_test_vectors.md (V1, V2, P1, P2, P5, E2) decode to the operations they stand for. -/
def Obligations.SpecWordsDecode : Prop :=
  decode [0x00, 0x20, 0x03, 0x01] = .ok (.openSession 0x20 0x03 0x01, []) ∧
  decode [0x02, 0x20, 0x12, 0x01, 0x00] = .ok (.build 0x20 0x12 0x01 [], []) ∧
  decode [0x06, 0x00, 0x0A, 0x0B, 0x0C] = .ok (.intTo3Bytes 0x0A0B0C, []) ∧
  decode [0x0C, 0x12, 0x02, 0x03, 0x0A, 0x0B, 0x0C] = .ok (.sendReceive 0x12 0x02 [0x0A, 0x0B, 0x0C], []) ∧
  decode [0x09] = .ok (.releaseBus, []) ∧
  decode [0x17] = .error .reservedHighBits ∧
  decode [0x3B, 0x06, 0x12, 0x20, 0x01, 0x12, 0x34, 0x56, 0x2B] =
    .ok (.frame 0x06 0x12 0x20 0x01 [0x12, 0x34, 0x56] 0x2B, [])

/-! ## The Codec -/

/-- R121: BUILD loads all fields of the TX packet register together and hands the Packet over, or changes nothing and
ends ST_MALFORMED; while busy it is refused. -/
def Obligations.BuildConstructsOrRefuses : Prop :=
  ∀ (s : State) (src rcv cmd : Int) (data : List Int),
    (s.busy = false → goodPacket [src, rcv, cmd] data →
      ∃ p tx, p.Carries src rcv cmd data ∧ tx.Holds p s.tx ∧
        exec (.build src rcv cmd data) s = .next (({ s with tx := tx } : State).ended .build .ok (.packet p))) ∧
    (s.busy = false → ¬ goodPacket [src, rcv, cmd] data →
      exec (.build src rcv cmd data) s = .next (s.ended .build .malformed .empty)) ∧
    (s.busy = true → exec (.build src rcv cmd data) s = .next (s.ended .build .refused .empty))

/-- R123: the code 0x03 with `sel` is ENCODE, which gives `SOM LEN SRC RCV CMD data CHK` of the selected packet, with LEN = 3 + n and CHK the negated sum of
LEN to the last data byte, modulo 256; it is refused for a reserved `sel` and for an RX register without a packet. -/
def Obligations.EncodeGivesTheFrame : Prop :=
  (∀ sel : Byte, decodeCommand [0x03, sel] = .ok (.encode sel, [])) ∧
  ∀ s : State, s.busy = false →
    (∀ p : Packet, ∀ sel : Byte, (sel = 0 ∧ p = s.txPacket) ∨ (sel = 1 ∧ s.rx.chkPresent = true ∧ p = s.rxPacket) →
      ∃ len check : Byte, len = BitVec.ofNat 8 (3 + p.data.length) ∧
        check.toNat = (256 - (len.toNat + p.src.toNat + p.rcv.toNat + p.cmd.toNat + sumBytes p.data) % 256) % 256 ∧
        exec (.encode sel) s =
          .next (s.ended .encode .ok (.bytes ([0x3B, len, p.src, p.rcv, p.cmd] ++ p.data ++ [check])))) ∧
    (∀ sel : Byte, 2 ≤ sel.toNat ∨ (sel = 1 ∧ s.rx.chkPresent = false) →
      exec (.encode sel) s = .next (s.ended .encode .refused .empty))

/-- R124: length, first byte, the checksum invariant, and injectivity of `Encode`. -/
def Obligations.EncodeHasTheTestableProperties : Prop :=
  ∀ p : Packet,
    (encodePacket p).length = p.data.length + 6 ∧ (encodePacket p)[0]? = some 0x3B ∧
    sumBytes ((encodePacket p).drop 1) % 256 = 0 ∧
    ∀ q : Packet, encodePacket p = encodePacket q → p.src = q.src ∧ p.rcv = q.rcv ∧ p.cmd = q.cmd ∧ p.data = q.data

/-- R126: the code 0x04 with `sel` is CHECKSUM_VALID, which compares RX_CHK with the trailing byte of `Encode`, which is the test whether the received bytes
LEN to CHK sum to 0 modulo 256; it is refused where `receivedChecksum` is absent. -/
def Obligations.ChecksumValidTestsTheSum : Prop :=
  (∀ sel : Byte, decodeCommand [0x04, sel] = .ok (.checksumValid sel, [])) ∧
  ∀ s : State, s.Inv → s.busy = false →
    (s.rx.chkPresent = true →
      ∃ b, exec (.checksumValid 1) s = .next (s.ended .checksumValid .ok (.bit b)) ∧
        (b = true ↔ (encodePacket s.rxPacket).getLast? = some s.rx.chk) ∧
        (b = true ↔
          (s.rxLen.toNat + s.rx.src.toNat + s.rx.rcv.toNat + s.rx.cmd.toNat +
            sumBytes (s.rx.data.take s.rx.cnt.toNat) + s.rx.chk.toNat) % 256 = 0)) ∧
    (s.rx.chkPresent = false → exec (.checksumValid 1) s = .next (s.ended .checksumValid .refused .empty)) ∧
    (∀ sel : Byte, sel ≠ 1 → exec (.checksumValid sel) s = .next (s.ended .checksumValid .refused .empty))

/-- R128: the code 0x06 with `v3 v2 v1 v0` is INT_TO_3BYTES of that big-endian value, which gives bits 23:16, 15:8 and
7:0 of the value, for every natural number, and is refused only while busy. -/
def Obligations.IntToThreeBytesSplits : Prop :=
  (∀ v3 v2 v1 v0 : Byte,
    decodeCommand [0x06, v3, v2, v1, v0] =
      .ok (.intTo3Bytes (v3.toNat * 2 ^ 24 + v2.toNat * 2 ^ 16 + v1.toNat * 2 ^ 8 + v0.toNat), [])) ∧
  ∀ (s : State) (v : Nat),
    (s.busy = false →
      ∃ b2 b1 b0 : Byte, exec (.intTo3Bytes v) s = .next (s.ended .intTo3Bytes .ok (.threeBytes b2 b1 b0)) ∧
        b2.toNat = v / 65536 % 256 ∧ b1.toNat = v / 256 % 256 ∧ b0.toNat = v % 256) ∧
    (s.busy = true → exec (.intTo3Bytes v) s = .next (s.ended .intTo3Bytes .refused .empty))

/-- R130 to R132: DESCRIBE gives the record of the selected packet: its fields and names, the checksum status, and the
big-endian parsed value of a payload of at most three bytes. -/
def Obligations.DescribeGivesTheRecord : Prop :=
  ∀ s : State, s.busy = false →
    (∀ p : Packet, ∀ sel : Byte, (sel = 0 ∧ p = s.txPacket) ∨ (sel = 1 ∧ s.rx.chkPresent = true ∧ p = s.rxPacket) →
      ∃ r : DiagRecord, exec (.describe sel) s = .next (s.ended .describe .ok (.record r)) ∧
        r.src = p.src ∧ r.srcName = (Config.nameOfAddress p.src).getD "unknown" ∧
        r.rcv = p.rcv ∧ r.rcvName = (Config.nameOfAddress p.rcv).getD "unknown" ∧
        r.cmd = p.cmd ∧ r.cmdName = (Config.nameOfCommand p.cmd).getD "unknown" ∧ r.data = p.data ∧
        (r.chkStatus = .unknown ↔ sel = 0) ∧
        (r.chkStatus = .ok ↔ sel = 1 ∧ (encodePacket p).getLast? = some s.rx.chk) ∧
        (r.chkStatus = .failed ↔ sel = 1 ∧ (encodePacket p).getLast? ≠ some s.rx.chk) ∧
        r.parsed =
          (match p.data with
            | [] => some 0
            | [a] => some a.toNat
            | [a, b] => some (a.toNat * 256 + b.toNat)
            | [a, b, c] => some (a.toNat * 65536 + b.toNat * 256 + c.toNat)
            | _ => none)) ∧
    (∀ sel : Byte, 2 ≤ sel.toNat ∨ (sel = 1 ∧ s.rx.chkPresent = false) →
      exec (.describe sel) s = .next (s.ended .describe .refused .empty))

/-- The refusals of the admission table (R200): by session state and while an operation runs; a refused command changes
nothing but LAST_ST and RESULT, so a running operation goes on (log entry 14). The cells "accepted" are the statements on
each operation, and for CLOSE while busy `EveryCloseIsAcceptedAndCompletes`. -/
def Obligations.AdmissionTableRefuses : Prop :=
  ∀ s : State,
    (s.sess = .opened ∨ s.busy = true →
      ∀ addr ctrl timeout, exec (.openSession addr ctrl timeout) s = .next (s.ended .openSession .refused .empty)) ∧
    (s.sess = .closed → exec .closeSession s = .next (s.ended .closeSession .refused .empty)) ∧
    (s.busy = true →
      (∀ src rcv cmd data, exec (.build src rcv cmd data) s = .next (s.ended .build .refused .empty)) ∧
      ∀ sel value, exec (.encode sel) s = .next (s.ended .encode .refused .empty) ∧
        exec (.checksumValid sel) s = .next (s.ended .checksumValid .refused .empty) ∧
        exec (.describe sel) s = .next (s.ended .describe .refused .empty) ∧
        exec (.intTo3Bytes value) s = .next (s.ended .intTo3Bytes .refused .empty)) ∧
    (s.sess = .closed ∨ s.busy = true →
      exec .readPacket s = .next (s.ended .readPacket .refused .empty) ∧
      exec .takeBus s = .next (s.ended .takeBus .refused .empty) ∧
      exec .releaseBus s = .next (s.ended .releaseBus .refused .empty) ∧
      exec .receive s = .next (s.ended .receive .refused .empty) ∧
      ∀ dst cmd data, exec (.send dst cmd data) s = .next (s.ended .send .refused .empty) ∧
        exec (.sendReceive dst cmd data) s = .next (s.ended .sendReceive .refused .empty))

/-! ## OPEN, CLOSE and the arbiter -/

/-- R196: the code 0x00 with `local ctrl timeout` is OPEN, which writes the configuration, deasserts RTS and opens the session; while the session is open it is refused. -/
def Obligations.OpenStartsTheSession : Prop :=
  (∀ addr ctrl timeout : Byte,
    decodeCommand [0x00, addr, ctrl, timeout] = .ok (.openSession addr ctrl timeout, [])) ∧
  ∀ (s : State) (addr ctrl timeout : Byte),
    (s.sess = .closed → s.busy = false →
      exec (.openSession addr ctrl timeout) s =
        .next (({ s with
                  localAddr := addr, ctrl := ctrl &&& 0x07, readTimeout := timeout, rts := false, sstate := .idle,
                  sess := .opened } : State).withEvents [.rts false] |>.ended .openSession .ok .empty)) ∧
    (s.sess = .opened →
      exec (.openSession addr ctrl timeout) s = .next (s.ended .openSession .refused .empty))

/-- R198: the code 0x01 is CLOSE, which with no operation running deasserts RTS, closes the session and loses the unread bytes; everything else
keeps its value; while the session is closed it is refused. -/
def Obligations.CloseEndsTheSession : Prop :=
  decodeCommand [0x01] = .ok (.closeSession, []) ∧
  ∀ s : State,
    (s.sess = .opened → s.quiet →
      exec .closeSession s =
        .next (({ s with rts := false, sstate := .idle, sess := .closed, rxIn := [] } : State).withEvents [.rts false]
          |>.ended .closeSession .ok .empty)) ∧
    (s.sess = .closed → exec .closeSession s = .next (s.ended .closeSession .refused .empty))

/-- R199: CLOSE while an operation waits for a byte or a CTS level: the pending access answers `Closed`, even if a byte
is waiting; the operation ends ST_ABORTED with SSTATE idle and RTS and the Reader's registers as they are; then CLOSE
proceeds and ends ST_OK. The model's choices in it: acceptance empties RESULT (log entry 13), the three steps (log entries
17 and 18), and that a read answered `Closed` leaves the event Rx(Closed), which R44 does not list (log entry 29). -/
def Obligations.CloseAbortsAWaitingOperation : Prop :=
  ∀ (s : State) (op : OpName) (point : Point), s.Inv → s.running = some { op := op, point := point } →
    (point = .sample ∨ point = .read) → s.closing = 0 → s.inputs = [] →
    ∃ t a u,
      exec .closeSession s = .next t ∧ t = { s with closing := 1, result := .empty } ∧
      step t = .next a ∧
      a = (({ t with running := none, sstate := .idle } : State).withEvents
            [if point = .sample then .cts .closed else .rx .closed]).ended op .aborted .empty ∧
      a.statusByte = 0x11 ∧
      step a = .next u ∧
      u = (({ a with rts := false, sess := .closed, closing := 0, rxIn := [] } : State).withEvents
            [.rts false]).ended .closeSession .ok .empty

/-- The cells of CLOSE in the admission table (R200), for every CLOSE, a second one while one is pending included: while an
operation runs it is accepted and waits (R199); with none running it completes ST_OK at once (`exec` of it with others
still pending completes those first, a state in which `step` presents none: `AnEarlierCloseRunsFirst`); and when the
running operation has ended, every pending CLOSE completes ST_OK. That two of them complete one
after the other in one step, each with its RTS write and its record, is the model's choice (log entry 16); that an
accepted CLOSE that waits empties RESULT is log entry 13. -/
def Obligations.EveryCloseIsAcceptedAndCompletes : Prop :=
  ∀ s : State,
    (s.sess = .opened → s.busy = true →
      exec .closeSession s = .next { s with closing := s.closing + 1, result := .empty }) ∧
    (s.sess = .opened → s.busy = false →
      exec .closeSession s =
        .next { s with
                rts := false, sess := .closed, sstate := .idle, closing := 0, rxIn := [], lastSt := .ok,
                result := .empty, history := s.history ++ closeEvents (s.closing + 1) }) ∧
    (s.inputs = [] → s.busy = false → s.closing ≠ 0 →
      step s =
        .next { s with
                rts := false, sess := .closed, sstate := .idle, closing := 0, rxIn := [], lastSt := .ok,
                result := .empty, history := s.history ++ closeEvents s.closing })

/-- R73 (2): operations happen in the order the host issued them, so one that is issued after an accepted CLOSE comes
after it. Issued where the running operation has ended and the CLOSE is the next to proceed (R199), it leaves that step to
the CLOSE and runs in the next one, in the session that the CLOSE has ended. And while a CLOSE is pending no operation
starts: with nothing running a step adds no event but those of the CLOSEs and the record of a reserved command; and what
runs after a step is the operation that ran before it. In which step such an operation runs, and how several CLOSEs
complete, is the model's choice (log entry 16). -/
def Obligations.AnEarlierCloseRunsFirst : Prop :=
  (∀ (s : State) (what : Stimulus) (later : List Input) (i : Instr),
    s.inputs = { timing := .after 0, what := what } :: later →
    ((∃ bytes surplus, what = .command bytes ∧ decodeCommand bytes = .ok (i, surplus)) ∨ what = .call i) →
    issuedByHost i = true → s.running = none → s.closing ≠ 0 →
    ∃ t, step s = .next t ∧
      t = { s with
            rts := false, sess := .closed, sstate := .idle, closing := 0, rxIn := [], lastSt := .ok, result := .empty,
            history := s.history ++ closeEvents s.closing } ∧
      step t = exec i { t with inputs := later }) ∧
  ∀ s t : State, s.closing ≠ 0 → step s = .next t →
    (s.running = none →
      t.running = none ∧
        (t.history = s.history ∨ t.history = s.history ++ closeEvents s.closing ∨
          ∃ op, t.history = s.history ++ [.done op .refused .empty])) ∧
    ∀ task, t.running = some task → ∃ before, s.running = some before ∧ before.op = task.op

/-- CLOSE ends every operation, wherever it is and whatever CLOSEs are pending, within five steps, and every one of those
CLOSEs completes ST_OK (R199, R272: "the host's only remedy is CLOSE"). The count of steps is the model's own (log entry
18), and so is it how several CLOSEs complete (log entry 16). -/
def Obligations.CloseEndsEveryOperation : Prop :=
  ∀ s : State, s.Inv → s.running ≠ none → s.inputs = [] →
    ∃ t k u, exec .closeSession s = .next t ∧ k ≤ 5 ∧ Runs k t u ∧ u.sess = .closed ∧ u.running = none ∧
      u.closing = 0 ∧ u.rts = false ∧ u.sstate = .idle ∧ u.lastSt = .ok ∧
      ∃ before, u.history = before ++ closeEvents (s.closing + 1)

/-- R181, R184: TAKE_BUS does nothing with ARB = 0; with ARB = 1 it samples CTS until it is 0, asserts RTS and completes,
whatever RTS was. The count of steps is the model's own (log entry 18). -/
def Obligations.TakeBusTakesAFreeBus : Prop :=
  ∀ s : State, s.ready →
    (s.arb = false → exec .takeBus s = .next (s.ended .takeBus .ok .empty)) ∧
    (s.arb = true → ∀ (n : Nat) (later : List Bool), s.ctsIn = List.replicate n true ++ false :: later →
      ∃ t, exec .takeBus s = .next t ∧
        Runs (n + 2) t
          ((({ s with ctsIn := later, rts := true, sstate := .idle } : State).withEvents
              (List.replicate n (.cts (.level true)) ++ [.cts (.level false), .rts true])).ended .takeBus .ok .empty))

/-- R233: while every CTS sample answers 1 the operation goes on sampling, for any number of samples: it does not
complete, RTS is not asserted and nothing is written. -/
def Obligations.TakeBusPollsWithoutBound : Prop :=
  ∀ (s : State) (op : OpName) (n : Nat) (later : List Bool), s.running = some { op := op, point := .sample } →
    s.closing = 0 → s.inputs = [] → s.ctsIn = List.replicate n true ++ later →
    Runs n s (({ s with ctsIn := later } : State).withEvents (List.replicate n (.cts (.level true))))

/-- R183: the code 0x09 is RELEASE_BUS, which deasserts RTS with ARB = 1, without looking at CTS or at whether the bus was held, and does nothing
with ARB = 0. -/
def Obligations.ReleaseBusDeassertsRts : Prop :=
  decodeCommand [0x09] = .ok (.releaseBus, []) ∧
  ∀ s : State, s.sess = .opened → s.busy = false →
    (s.arb = true →
      exec .releaseBus s =
        .next ((({ s with rts := false } : State).withEvents [.rts false]).ended .releaseBus .ok .empty)) ∧
    (s.arb = false → exec .releaseBus s = .next (s.ended .releaseBus .ok .empty))

/-- Who changes RTS (R186): it is asserted only at the end of TakeBus, in an arbitrated session, a place that is entered
only by a sample of CTS that answered 0; and it is deasserted only by the release after an echo, by RELEASE_BUS, or where
the session ends or the block is reset. -/
def Obligations.RtsChangesOnlyWhereTheSpecSays : Prop :=
  ∀ s t : State, s.Inv → step s = .next t →
    (s.rts = false → t.rts = true →
      s.arb = true ∧ ∃ op, s.running = some { op := op, point := .assertRts } ∧
        (op = .takeBus ∨ op = .send ∨ op = .sendReceive)) ∧
    (s.rts = true → t.rts = false →
      t.sess = .closed ∨ (fetch s).1 = .operation .releaseBus ∨
        ∃ op, s.running = some { op := op, point := .release } ∧ (op = .receive ∨ op = .sendReceive)) ∧
    (∀ op, t.running = some { op := op, point := .assertRts } →
      s.running = some { op := op, point := .assertRts } ∨
        (s.running = some { op := op, point := .sample } ∧ s.closing = 0 ∧
          t.history = s.history ++ [.cts (.level false)]))

/-! ## SEND -/

/-- R201 to R203: SEND builds the packet from LOCAL_ADDR, takes the bus (with ARB = 1, after any number of busy samples),
emits DBG_TX with DEBUG = 1, writes exactly one frame, and completes with RTS still asserted on an arbitrated link. The
count of steps is the model's own (log entry 18). -/
def Obligations.SendWritesOneFrame : Prop :=
  ∀ (s : State) (dst cmd : Int) (data : List Int) (n : Nat) (later : List Bool), s.ready →
    goodPacket [dst, cmd] data → (s.arb = true → s.ctsIn = List.replicate n true ++ false :: later) →
    ∃ p tx t, p.Carries s.localAddr.toNat dst cmd data ∧ tx.Holds p s.tx ∧ exec (.send dst cmd data) s = .next t ∧
      Runs ((if s.arb then n + 2 else 0) + (if s.debug then 1 else 0) + 1) t
        ((({ s with
              tx := tx, sstate := .idle, ctsIn := if s.arb then later else s.ctsIn,
              rts := if s.arb then true else s.rts } : State).withEvents
            ((if s.arb then List.replicate n (.cts (.level true)) ++ [.cts (.level false), .rts true] else []) ++
              (if s.debug then [.dbg (.tx (describePacket p))] else []) ++ [.tx (encodePacket p)])).ended
          .send .ok .empty)

/-- R232: where construction is refused BUILD, SEND and SEND_RECEIVE end ST_MALFORMED before any line activity, and the
TX packet register is unchanged. -/
def Obligations.MalformedPacketTouchesNothing : Prop :=
  ∀ (s : State) (dst cmd : Int) (data : List Int), s.busy = false → ¬ goodPacket [dst, cmd] data →
    (s.sess = .opened →
      exec (.send dst cmd data) s = .next (s.ended .send .malformed .empty) ∧
      exec (.sendReceive dst cmd data) s = .next (s.ended .sendReceive .malformed .empty)) ∧
    ∀ src, exec (.build src dst cmd data) s = .next (s.ended .build .malformed .empty)

/-- R210: SEND_RECEIVE is SEND then RECEIVE with nothing between: after the steps SEND takes, it is where a RECEIVE
issued after that SEND starts, but for its own name, the status and the completion record that SEND leaves. -/
def Obligations.SendReceiveIsSendThenReceive : Prop :=
  ∀ (s : State) (dst cmd : Int) (data : List Int) (n : Nat) (later : List Bool), s.ready →
    goodPacket [dst, cmd] data → (s.arb = true → s.ctsIn = List.replicate n true ++ false :: later) →
    ∃ k t1 a t2 b c h, exec (.sendReceive dst cmd data) s = .next t1 ∧ Runs k t1 a ∧
      exec (.send dst cmd data) s = .next t2 ∧ Runs k t2 b ∧ b.lastSt = .ok ∧
      b.history = h ++ [.done .send .ok .empty] ∧ exec .receive b = .next c ∧
      a = { c with
            running := some { op := .sendReceive, point := .read }, lastSt := s.lastSt, history := h }

/-! ## The Reader -/

/-- R151: every read starts in SCANNING with HIDX, RX_CNT and RX_CHK_PRESENT cleared, whatever the previous read left;
so do READ_PACKET and RECEIVE, which then wait for a byte; RECEIVE starts in the echo step with ARB = 1 and in the
response loop with ARB = 0 (R204). That RESULT is empty from acceptance on is the model's choice (log entry 13). -/
def Obligations.ReadsStartInScanning : Prop :=
  ∀ s : State, s.sess = .opened → s.busy = false →
    exec .readPacket s =
      .next { s with
              running := some { op := .readPacket, point := .read }, result := .empty, rstate := .scanning, hidx := 0,
              rx := { s.rx with cnt := 0, chkPresent := false } } ∧
    exec .receive s =
      .next { s with
              running := some { op := .receive, point := .read }, result := .empty, rstate := .scanning, hidx := 0,
              rx := { s.rx with cnt := 0, chkPresent := false }, sstate := if s.arb then .echo else .resp }

/-- R125: READ_PACKET fed exactly the bytes of `Encode(P)` hands P over with the checksum byte `Encode` produced, after
exactly `len(P.data) + 6` reads (and, with DEBUG = 1, the DBG_RX record). -/
def Obligations.ReaderInvertsEncode : Prop :=
  ∀ (s : State) (p : Packet) (more : List Arrival), s.ready → s.Inv → p.data.length ≤ 252 →
    s.rxIn = arriving (encodePacket p) ++ more →
    ∃ t u last, exec .readPacket s = .next t ∧ (encodePacket p).getLast? = some last ∧
      Runs (p.data.length + 6 + (if s.debug then 1 else 0)) t u ∧
      u.lastSt = .ok ∧ u.result = .packet (p.received last) ∧ u.rx.chkPresent = true ∧ u.rxPacket = p.received last ∧
      u.running = none ∧ u.rxIn = more ∧
      (s.debug = false → u.history =
        s.history ++ reads (encodePacket p) ++ [.done .readPacket .ok (.packet (p.received last))])

/-- R166: fed noise without a start byte, then a frame with any last byte, then anything, one READ_PACKET drops the
noise, hands over the frame's packet, and leaves the rest unread; with DEBUG = 1 each dropped byte and the packet are
recorded. Nothing but the Reader's registers, RESULT, LAST_ST and the outputs changes. -/
def Obligations.ReaderResynchronises : Prop :=
  ∀ (s : State) (noise : List Byte) (p : Packet) (last : Byte) (more : List Arrival), s.ready → s.Inv →
    p.data.length ≤ 252 → (∀ b ∈ noise, b ≠ 0x3B) → s.rxIn = arriving (noise ++ wireFrame p last) ++ more →
    ∃ t u, exec .readPacket s = .next t ∧
      Runs (noise.length * (if s.debug then 2 else 1) + p.data.length + 6 + (if s.debug then 1 else 0)) t u ∧
      u.lastSt = .ok ∧ u.result = .packet (p.received last) ∧ u.rxPacket = p.received last ∧ u.rstate = .done ∧
      u = { s with
            lastSt := u.lastSt, result := u.result, rx := u.rx, rstate := u.rstate, hidx := u.hidx, rxLen := p.len,
            rxIn := more, history := u.history } ∧
      u.history =
        s.history ++ noise.flatMap (fun b => if s.debug then [.rx (.byte b), .dbg (.noise b)] else [.rx (.byte b)]) ++
          reads (wireFrame p last) ++
          (if s.debug then [.dbg (.rx (describePacket (p.received last)))] else []) ++
          [.done .readPacket .ok (.packet (p.received last))]

/-- R163: what one byte does to the Reader's registers, in each state of RSTATE, for the operation READ_PACKET. -/
def Obligations.ReaderTransitionsOnAByte : Prop :=
  ∀ (s : State) (b : Byte) (more : List Arrival), s.Inv →
    s.running = some { op := .readPacket, point := .read } → s.closing = 0 → s.inputs = [] →
    s.rxIn = .byte b :: more →
    ∃ t, step s = .next t ∧ t.rxIn = more ∧
      (s.rstate = .scanning → b = 0x3B → (t.rstate, t.hidx, t.rxLen, t.rx) = (.header, 0, s.rxLen, s.rx)) ∧
      (s.rstate = .scanning → b ≠ 0x3B → (t.rstate, t.hidx, t.rxLen, t.rx) = (.scanning, s.hidx, s.rxLen, s.rx)) ∧
      (s.rstate = .header → s.hidx = 0 → 3 ≤ b.toNat → (t.rstate, t.hidx, t.rxLen, t.rx) = (.header, 1, b, s.rx)) ∧
      (s.rstate = .header → s.hidx = 0 → b.toNat < 3 →
        (t.rstate, t.hidx, t.rxLen, t.rx) = (.scanning, 0, b, s.rx)) ∧
      (s.rstate = .header → s.hidx = 1 →
        (t.rstate, t.hidx, t.rxLen, t.rx) = (.header, 2, s.rxLen, { s.rx with src := b })) ∧
      (s.rstate = .header → s.hidx = 2 →
        (t.rstate, t.hidx, t.rxLen, t.rx) = (.header, 3, s.rxLen, { s.rx with rcv := b })) ∧
      (s.rstate = .header → s.hidx = 3 →
        (t.rstate, t.hidx, t.rxLen, t.rx) =
          (if s.rxLen = 3 then .checksum else .payload, 0, s.rxLen, { s.rx with cmd := b })) ∧
      (s.rstate = .payload →
        t.rstate = (if s.rx.cnt.toNat + 1 = s.rxLen.toNat - 3 then .checksum else .payload) ∧ t.hidx = s.hidx ∧
          t.rxLen = s.rxLen ∧ t.rx.cnt.toNat = s.rx.cnt.toNat + 1 ∧
          t.rx.data = s.rx.data.set s.rx.cnt.toNat b ∧
          t.rx = { s.rx with cnt := t.rx.cnt, data := t.rx.data }) ∧
      (s.rstate = .checksum →
        (t.rstate, t.hidx, t.rxLen, t.rx) = (.done, s.hidx, s.rxLen, { s.rx with chk := b, chkPresent := true }))

/-- R160: a `NoByte` after SOM ends the read ST_NO_PACKET whatever ABORT_ON_TIMEOUT says, for each of the reading
operations; RSTATE, HIDX, RX_LEN and RX_CNT keep their values, and no packet is there. -/
def Obligations.NoByteAfterSomEndsTheRead : Prop :=
  ∀ (s : State) (op : OpName) (more : List Arrival), s.Inv → s.running = some { op := op, point := .read } →
    s.closing = 0 → s.inputs = [] → s.rxIn = .silence :: more → s.rstate ≠ .scanning →
    ∃ t, step s = .next t ∧ t.rx.chkPresent = false ∧ t.rx.cnt = s.rx.cnt ∧
      t = (({ s with running := none, sstate := .idle, rx := t.rx, draws := t.draws, rxIn := more } : State).withEvents
            [.rx .noByte]).ended op .noPacket .empty

/-- R153: a `NoByte` while SCANNING ends the read ST_NO_PACKET with ABORT_ON_TIMEOUT = 1, and with 0 changes nothing but
the stream: the next step reads again. -/
def Obligations.NoByteWhileScanningFollowsThePolicy : Prop :=
  ∀ (s : State) (op : OpName) (more : List Arrival), s.running = some { op := op, point := .read } →
    s.closing = 0 → s.inputs = [] → s.rxIn = .silence :: more → s.rstate = .scanning →
    (s.abortOnTimeout = true →
      ∃ t, step s = .next t ∧
        t = (({ s with running := none, sstate := .idle, rx := t.rx, draws := t.draws, rxIn := more } : State).withEvents
              [.rx .noByte]).ended op .noPacket .empty) ∧
    (s.abortOnTimeout = false → step s = .next (({ s with rxIn := more } : State).withEvents [.rx .noByte]))

/-- R234: with ABORT_ON_TIMEOUT = 0 the Reader goes on reading through any sequence of timeouts and of bytes that are no
SOM: nothing completes and nothing changes but the stream and the outputs (with DEBUG = 1 each dropped byte is recorded,
a step of its own). -/
def Obligations.ScanningNeverGivesUp : Prop :=
  ∀ (s : State) (op : OpName) (arrivals more : List Arrival), s.running = some { op := op, point := .read } →
    s.closing = 0 → s.inputs = [] → s.rstate = .scanning → s.abortOnTimeout = false →
    (∀ a ∈ arrivals, a ≠ .byte 0x3B) → s.rxIn = arrivals ++ more →
    ∃ events, arrivals.length ≤ events.length ∧ Runs events.length s (({ s with rxIn := more } : State).withEvents events) ∧
      events =
        arrivals.flatMap fun a =>
          match a with
          | .silence => [.rx .noByte]
          | .byte b => if s.debug then [.rx (.byte b), .dbg (.noise b)] else [.rx (.byte b)]

/-- R159: a LEN byte below 3 is rejected within the same read, SOM and that byte consumed and nothing more: no status, no
record, and the next byte is looked at as a start byte. -/
def Obligations.LenBelowThreeIsRejected : Prop :=
  ∀ (s : State) (op : OpName) (b : Byte) (more : List Arrival), s.running = some { op := op, point := .read } →
    s.closing = 0 → s.inputs = [] → s.rxIn = .byte b :: more → s.rstate = .header → s.hidx = 0 → b.toNat < 3 →
    step s = .next (({ s with rxIn := more, rxLen := b, rstate := .scanning } : State).withEvents [.rx (.byte b)])

/-! ## RECEIVE and SEND_RECEIVE -/

/-- R205: the packet read in the echo step is taken as the echo, whatever it holds and whatever its checksum, and is not
handed over, only recorded with DEBUG = 1 (R212); the next interaction deasserts RTS, and the response loop starts a new
read. The count of steps is the model's own (log entry 18). -/
def Obligations.EchoIsDroppedAndTheBusReleased : Prop :=
  ∀ (s : State) (op : OpName) (b : Byte) (more : List Arrival), s.Inv →
    s.running = some { op := op, point := .read } → (op = .receive ∨ op = .sendReceive) → s.sstate = .echo →
    s.rstate = .checksum → s.closing = 0 → s.inputs = [] → s.rxIn = .byte b :: more →
    ∃ t u, Runs (if s.debug then 2 else 1) s t ∧ t.rts = s.rts ∧ t.running = some { op := op, point := .release } ∧
      step t = .next u ∧
      u = ({ s with
              rts := false, sstate := .resp, rstate := .scanning, hidx := 0, rxIn := more,
              rx := { s.rx with chk := b, cnt := 0, chkPresent := false } } : State).withEvents
            ([.rx (.byte b)] ++
              (if s.debug then [.dbg (.rx (describePacket { s.rxPacket with receivedChecksum := some b }))] else []) ++
              [.rts false])

/-- R206: an echo read that ends with no packet completes ST_NO_PACKET and leaves RTS as it was. -/
def Obligations.EchoTimeoutKeepsTheBus : Prop :=
  ∀ (s : State) (op : OpName) (more : List Arrival), s.running = some { op := op, point := .read } →
    s.sstate = .echo → (s.abortOnTimeout = true ∨ s.rstate ≠ .scanning) → s.closing = 0 → s.inputs = [] →
    s.rxIn = .silence :: more →
    ∃ t, step s = .next t ∧ t.rts = s.rts ∧
      t = (({ s with running := none, sstate := .idle, rx := t.rx, draws := t.draws, rxIn := more } : State).withEvents
            [.rx .noByte]).ended op .noPacket .empty

/-- R209: a read of the response loop that ends with no packet completes ST_NO_PACKET with an empty result, and RTS is
0. -/
def Obligations.ResponseTimeoutIsNoResponse : Prop :=
  ∀ (s : State) (op : OpName) (more : List Arrival), s.Inv → s.running = some { op := op, point := .read } →
    s.sstate = .resp → (s.abortOnTimeout = true ∨ s.rstate ≠ .scanning) → s.closing = 0 → s.inputs = [] →
    s.rxIn = .silence :: more →
    ∃ t, step s = .next t ∧ t.lastSt = .noPacket ∧ t.result = .empty ∧ t.rts = false ∧ t.sstate = .idle ∧
      t.running = none ∧ t.rx.chkPresent = false

/-- R207, R208, R214: RECEIVE drops the echo of an arbitrated link, whatever packet it is, and deasserts RTS; drops every
packet not addressed to LOCAL_ADDR; and hands over the first packet addressed to it, whatever its source, command and
checksum; the rest of the stream stays unread. With DEBUG = 1 the same happens, with the records of R212. -/
def Obligations.ReceiveReturnsTheFirstAddressedPacket : Prop :=
  ∀ (s : State) (echo : Packet × Byte) (foreign : List (Packet × Byte)) (p : Packet) (last : Byte)
    (more : List Arrival),
    s.ready → s.Inv → echo.1.data.length ≤ 252 → p.data.length ≤ 252 →
    (∀ f ∈ foreign, f.1.data.length ≤ 252 ∧ f.1.rcv ≠ s.localAddr) → p.rcv = s.localAddr →
    s.rxIn = arriving ((if s.arb then wireFrame echo.1 echo.2 else []) ++ wireFrames foreign ++ wireFrame p last) ++
      more →
    ∃ t k u, exec .receive s = .next t ∧ Runs k t u ∧
      u = { s with
            lastSt := .ok, result := .packet (p.received last), rx := u.rx, rstate := u.rstate, hidx := u.hidx,
            rxLen := u.rxLen, rxIn := more, rts := false, history := u.history } ∧
      u.history =
        s.history ++ (if s.arb then frameEvents s.debug echo.1 echo.2 ++ [.rts false] else []) ++
          ignoredEvents s.debug foreign ++ frameEvents s.debug p last ++ [.done .receive .ok (.packet (p.received last))]

/-- R210, R214: SEND_RECEIVE writes its one frame, and then does what RECEIVE does: it drops the echo of an arbitrated
link and every packet for another address, and hands over the first one for LOCAL_ADDR. With DEBUG = 1 the same happens,
with the records of R212. -/
def Obligations.SendReceiveReturnsTheFirstAddressedPacket : Prop :=
  ∀ (s : State) (dst cmd : Int) (data : List Int) (n : Nat) (later : List Bool) (echo : Packet × Byte)
    (foreign : List (Packet × Byte)) (p : Packet) (last : Byte) (more : List Arrival),
    s.ready → s.Inv → goodPacket [dst, cmd] data →
    (s.arb = true → s.ctsIn = List.replicate n true ++ false :: later) →
    echo.1.data.length ≤ 252 → p.data.length ≤ 252 →
    (∀ f ∈ foreign, f.1.data.length ≤ 252 ∧ f.1.rcv ≠ s.localAddr) → p.rcv = s.localAddr →
    s.rxIn = arriving ((if s.arb then wireFrame echo.1 echo.2 else []) ++ wireFrames foreign ++ wireFrame p last) ++
      more →
    ∃ q t k u, q.Carries s.localAddr.toNat dst cmd data ∧ exec (.sendReceive dst cmd data) s = .next t ∧ Runs k t u ∧
      u.tx.Holds q s.tx ∧
      u = { s with
            lastSt := .ok, result := .packet (p.received last), tx := u.tx, rx := u.rx, rstate := u.rstate,
            hidx := u.hidx, rxLen := u.rxLen, rts := false, rxIn := more,
            ctsIn := if s.arb then later else s.ctsIn, history := u.history } ∧
      u.history =
        s.history ++
          (if s.arb then List.replicate n (.cts (.level true)) ++ [.cts (.level false), .rts true] else []) ++
          (if s.debug then [.dbg (.tx (describePacket q))] else []) ++ [.tx (encodePacket q)] ++
          (if s.arb then frameEvents s.debug echo.1 echo.2 ++ [.rts false] else []) ++
          ignoredEvents s.debug foreign ++ frameEvents s.debug p last ++ [.done .sendReceive .ok (.packet (p.received last))]

/-- R215: the filter loop has no count: however many packets for other addresses come, the operation is still running and
reading after them; with DEBUG = 1 each of them is recorded and marked ignored (R207). -/
def Obligations.FilteringNeverGivesUp : Prop :=
  ∀ (s : State) (op : OpName) (foreign : List (Packet × Byte)) (more : List Arrival), s.Inv →
    s.running = some { op := op, point := .read } → s.sstate = .resp → s.rstate = .scanning →
    s.closing = 0 → s.inputs = [] → (∀ f ∈ foreign, f.1.data.length ≤ 252 ∧ f.1.rcv ≠ s.localAddr) →
    s.rxIn = arriving (wireFrames foreign) ++ more →
    ∃ u, Runs (ignoredEvents s.debug foreign).length s u ∧ u.running = s.running ∧ u.sstate = .resp ∧
      u.rstate = .scanning ∧ u.rxIn = more ∧ u.history = s.history ++ ignoredEvents s.debug foreign

/-! ## Debug mode -/

/-- R43: no debug record is produced while DEBUG = 0. -/
def Obligations.NoDebugRecordWithoutDebug : Prop :=
  ∀ s t : State, s.Inv → s.debug = false → step s = .next t → t.debugOutput = s.debugOutput

/-- R212: with DEBUG = 1 the record follows the byte it is about, before the next interaction: DBG_NOISE for a dropped
byte, DBG_RX for every packet at DONE, then DBG_IGNORED for one the filter drops; DBG_TX comes immediately before the
write. -/
def Obligations.DebugRecordsInOrder : Prop :=
  ∀ (s : State) (op : OpName), s.Inv → s.debug = true → s.closing = 0 → s.inputs = [] →
    (∀ b more, s.running = some { op := op, point := .read } → s.rxIn = .byte b :: more → s.rstate = .scanning →
      b ≠ 0x3B → ∃ t, step s = .next t ∧
        step t = .next (({ s with rxIn := more } : State).withEvents [.rx (.byte b), .dbg (.noise b)])) ∧
    (∀ b more, s.running = some { op := op, point := .read } → s.rxIn = .byte b :: more → s.rstate = .checksum →
      ∃ t u, step s = .next t ∧ step t = .next u ∧
        ∃ after, u.history = s.history ++ [.rx (.byte b), .dbg (.rx (describePacket
          { s.rxPacket with receivedChecksum := some b }))] ++ after ∧
        (s.sstate = .resp → s.rx.rcv ≠ s.localAddr → after = [] ∧
          ∃ v, step u = .next v ∧ v.history = u.history ++ [.dbg .ignored] ∧ v.rstate = .scanning ∧
            v.running = some { op := op, point := .read })) ∧
    (s.running = some { op := op, point := .debugTx } → ∃ t u after, step s = .next t ∧ step t = .next u ∧
      u.history = s.history ++ [.dbg (.tx (describePacket s.txPacket)), .tx (encodePacket s.txPacket)] ++ after)

/-! ## Rules over all steps -/

/-- R197: the configuration is written by OPEN alone, in a closed session, and OPEN is refused while the session is open;
only reset restores it otherwise. -/
def Obligations.OnlyOpenWritesTheConfiguration : Prop :=
  (∀ (s : State) (addr ctrl timeout : Byte), s.sess = .opened →
    exec (.openSession addr ctrl timeout) s = .next (s.ended .openSession .refused .empty)) ∧
  ∀ s t : State, step s = .next t →
    (t.localAddr = s.localAddr ∧ t.ctrl = s.ctrl ∧ t.readTimeout = s.readTimeout) ∨
      (s.sess = .closed ∧ ∃ addr ctrl timeout, (fetch s).1 = .operation (.openSession addr ctrl timeout)) ∨
      (fetch s).1 = .resetInput

/-- R27: the TX packet register is written only by BUILD, directly or as the first step of SEND and SEND_RECEIVE (and by
reset). -/
def Obligations.OnlyConstructionWritesTheTxRegister : Prop :=
  ∀ s t : State, step s = .next t →
    t.tx = s.tx ∨ (∃ src rcv cmd data, (fetch s).1 = .operation (.build src rcv cmd data)) ∨
      (∃ dst cmd data, (fetch s).1 = .operation (.send dst cmd data)) ∨
      (∃ dst cmd data, (fetch s).1 = .operation (.sendReceive dst cmd data)) ∨ (fetch s).1 = .resetInput

/-- R61, R63: the receive queue is never flushed: arrivals and frames that come in join at its end; a step takes at most
its first answer, and that only in an `RxRead()`; only a CLOSE that ends an open session loses it (R198). That a reset
keeps it is the model's choice (log entry 21). -/
def Obligations.TheReceiveQueueIsNeverFlushed : Prop :=
  ∀ s t : State, s.Inv → step s = .next t →
    t.rxIn = s.rxIn ∨
      (∃ arrivals, (fetch s).1 = .arrivals arrivals ∧ t.rxIn = s.rxIn ++ arrivals) ∨
      (∃ len src rcv cmd payload check, (fetch s).1 = .operation (.frame len src rcv cmd payload check) ∧
        t.rxIn = s.rxIn ++ arriving ([0x3B, len, src, rcv, cmd] ++ payload ++ [check])) ∨
      (∃ op a, s.running = some { op := op, point := .read } ∧ s.closing = 0 ∧ s.rxIn = a :: t.rxIn) ∨
      (s.running = none ∧ s.sess = .opened ∧ t.sess = .closed ∧ t.rxIn = [] ∧
        ((fetch s).1 = .operation .closeSession ∨ ((fetch s).1 = .engine ∧ s.closing ≠ 0)))

/-- R44: the history is an output: a step only adds events at its end. -/
def Obligations.TheHistoryOnlyGrows : Prop :=
  ∀ s t : State, step s = .next t → ∃ events, t.history = s.history ++ events

/-! ## FRAME, the reserved codes, and the registers by number -/

/-- FRAME: a frame that comes in joins the receive queue, SOM first and CHK last, and nothing else changes (R63, R90, log
entry 8). -/
def Obligations.FrameJoinsTheReceiveQueue : Prop :=
  ∀ (s : State) (len src rcv cmd : Byte) (payload : List Byte) (check : Byte),
    exec (.frame len src rcv cmd payload check) s =
      .next { s with rxIn := s.rxIn ++ arriving ([0x3B, len, src, rcv, cmd] ++ payload ++ [check]) }

/-- R105: the reserved codes 0x0D, 0x0E and 0x0F complete at once with ST_REFUSED and change nothing but LAST_ST and
RESULT. -/
def Obligations.ReservedCodesCompleteRefused : Prop :=
  ∀ s : State,
    exec .reserved0D s = .next (s.ended .reserved .refused .empty) ∧
    exec .reserved0E s = .next (s.ended .reserved .refused .empty) ∧
    exec .reserved0F s = .next (s.ended .reserved .refused .empty)

/-- R24, R25, R26: the registers by number, and the places of the bits of STATUS, LINE, register 0x05 and 0x06; the status
codes are those of R104. That a number without a register answers nothing is the model's choice (log entry 23). -/
def Obligations.RegistersByNumber : Prop :=
  ∀ (s : State) (cts : Bool),
    readRegister 0x00 cts s = some s.localAddr ∧ readRegister 0x01 cts s = some s.ctrl ∧
    readRegister 0x02 cts s = some s.readTimeout ∧ readRegister 0x07 cts s = some s.rxLen ∧
    readRegister 0x08 cts s = some s.rx.cnt ∧
    (∃ st, readRegister 0x03 cts s = some st ∧ (st.getLsbD 0 = true ↔ s.sess = .opened) ∧ st.getLsbD 1 = s.busy ∧
      (st.extractLsb' 2 3).toNat =
        (match s.lastSt with | .ok => 0 | .noPacket => 1 | .malformed => 2 | .refused => 3 | .aborted => 4) ∧
      st.extractLsb' 5 3 = 0) ∧
    (∃ line, readRegister 0x04 cts s = some line ∧ line.getLsbD 0 = s.rts ∧ line.getLsbD 1 = cts ∧
      line.extractLsb' 2 6 = 0) ∧
    (∃ r, readRegister 0x05 cts s = some r ∧ r.extractLsb' 3 2 = s.hidx ∧
      (r.extractLsb' 0 3).toNat =
        (match s.rstate with | .scanning => 0 | .header => 1 | .payload => 2 | .checksum => 3 | .done => 4)) ∧
    (∃ q, readRegister 0x06 cts s = some q ∧
      q.toNat = (match s.sstate with | .idle => 0 | .take => 1 | .write => 2 | .echo => 3 | .resp => 4)) ∧
    ∀ number : Byte, 9 ≤ number.toNat → readRegister number cts s = none

/-- R25: a host read of LINE takes a fresh sample of CTS, which is not stored; a read of any other register changes
nothing. -/
def Obligations.LineReadsTakeAFreshSample : Prop :=
  ∀ s : State,
    (∀ v later, s.ctsIn = v :: later →
      hostRead 0x04 s = (some (s.lineByte v), ({ s with ctsIn := later } : State).withEvents [.cts (.level v)])) ∧
    ∀ number : Byte, number ≠ 0x04 → (hostRead number s).2 = s
end

