-- ==== Sys2Proof/Laws/State.lean ====
section
/-! SUPPORT. One lemma per field per update of the state, true by rfl, so that no later proof unfolds an update. -/

namespace Sys2Proof.Machine

variable (s : State)

/-! `emit` -/

@[simp] theorem emit_localAddr (e : Event) : (emit e s).localAddr = s.localAddr := rfl
@[simp] theorem emit_ctrl (e : Event) : (emit e s).ctrl = s.ctrl := rfl
@[simp] theorem emit_readTimeout (e : Event) : (emit e s).readTimeout = s.readTimeout := rfl
@[simp] theorem emit_sess (e : Event) : (emit e s).sess = s.sess := rfl
@[simp] theorem emit_lastSt (e : Event) : (emit e s).lastSt = s.lastSt := rfl
@[simp] theorem emit_rts (e : Event) : (emit e s).rts = s.rts := rfl
@[simp] theorem emit_tx (e : Event) : (emit e s).tx = s.tx := rfl
@[simp] theorem emit_rx (e : Event) : (emit e s).rx = s.rx := rfl
@[simp] theorem emit_rstate (e : Event) : (emit e s).rstate = s.rstate := rfl
@[simp] theorem emit_hidx (e : Event) : (emit e s).hidx = s.hidx := rfl
@[simp] theorem emit_rxLen (e : Event) : (emit e s).rxLen = s.rxLen := rfl
@[simp] theorem emit_sstate (e : Event) : (emit e s).sstate = s.sstate := rfl
@[simp] theorem emit_result (e : Event) : (emit e s).result = s.result := rfl
@[simp] theorem emit_running (e : Event) : (emit e s).running = s.running := rfl
@[simp] theorem emit_closing (e : Event) : (emit e s).closing = s.closing := rfl
@[simp] theorem emit_rxIn (e : Event) : (emit e s).rxIn = s.rxIn := rfl
@[simp] theorem emit_ctsIn (e : Event) : (emit e s).ctsIn = s.ctsIn := rfl
@[simp] theorem emit_draws (e : Event) : (emit e s).draws = s.draws := rfl
@[simp] theorem emit_inputs (e : Event) : (emit e s).inputs = s.inputs := rfl
@[simp] theorem emit_history (e : Event) : (emit e s).history = s.history ++ [e] := rfl
@[simp] theorem emit_arb (e : Event) : (emit e s).arb = s.arb := rfl
@[simp] theorem emit_debug (e : Event) : (emit e s).debug = s.debug := rfl
@[simp] theorem emit_abortOnTimeout (e : Event) : (emit e s).abortOnTimeout = s.abortOnTimeout := rfl
@[simp] theorem emit_rxPacket (e : Event) : (emit e s).rxPacket = s.rxPacket := rfl
@[simp] theorem emit_txPacket (e : Event) : (emit e s).txPacket = s.txPacket := rfl
@[simp] theorem emit_busy (e : Event) : (emit e s).busy = s.busy := rfl

/-! `setRts` -/

@[simp] theorem setRts_localAddr (v : Bool) : (setRts v s).localAddr = s.localAddr := rfl
@[simp] theorem setRts_ctrl (v : Bool) : (setRts v s).ctrl = s.ctrl := rfl
@[simp] theorem setRts_readTimeout (v : Bool) : (setRts v s).readTimeout = s.readTimeout := rfl
@[simp] theorem setRts_sess (v : Bool) : (setRts v s).sess = s.sess := rfl
@[simp] theorem setRts_lastSt (v : Bool) : (setRts v s).lastSt = s.lastSt := rfl
@[simp] theorem setRts_rts (v : Bool) : (setRts v s).rts = v := rfl
@[simp] theorem setRts_tx (v : Bool) : (setRts v s).tx = s.tx := rfl
@[simp] theorem setRts_rx (v : Bool) : (setRts v s).rx = s.rx := rfl
@[simp] theorem setRts_rstate (v : Bool) : (setRts v s).rstate = s.rstate := rfl
@[simp] theorem setRts_hidx (v : Bool) : (setRts v s).hidx = s.hidx := rfl
@[simp] theorem setRts_rxLen (v : Bool) : (setRts v s).rxLen = s.rxLen := rfl
@[simp] theorem setRts_sstate (v : Bool) : (setRts v s).sstate = s.sstate := rfl
@[simp] theorem setRts_result (v : Bool) : (setRts v s).result = s.result := rfl
@[simp] theorem setRts_running (v : Bool) : (setRts v s).running = s.running := rfl
@[simp] theorem setRts_closing (v : Bool) : (setRts v s).closing = s.closing := rfl
@[simp] theorem setRts_rxIn (v : Bool) : (setRts v s).rxIn = s.rxIn := rfl
@[simp] theorem setRts_ctsIn (v : Bool) : (setRts v s).ctsIn = s.ctsIn := rfl
@[simp] theorem setRts_draws (v : Bool) : (setRts v s).draws = s.draws := rfl
@[simp] theorem setRts_inputs (v : Bool) : (setRts v s).inputs = s.inputs := rfl
@[simp] theorem setRts_history (v : Bool) : (setRts v s).history = s.history ++ [.rts v] := rfl
@[simp] theorem setRts_arb (v : Bool) : (setRts v s).arb = s.arb := rfl
@[simp] theorem setRts_debug (v : Bool) : (setRts v s).debug = s.debug := rfl
@[simp] theorem setRts_abortOnTimeout (v : Bool) : (setRts v s).abortOnTimeout = s.abortOnTimeout := rfl
@[simp] theorem setRts_rxPacket (v : Bool) : (setRts v s).rxPacket = s.rxPacket := rfl
@[simp] theorem setRts_txPacket (v : Bool) : (setRts v s).txPacket = s.txPacket := rfl
@[simp] theorem setRts_busy (v : Bool) : (setRts v s).busy = s.busy := rfl

/-! `deliver` -/

@[simp] theorem deliver_localAddr (a : List Arrival) : (deliver a s).localAddr = s.localAddr := rfl
@[simp] theorem deliver_ctrl (a : List Arrival) : (deliver a s).ctrl = s.ctrl := rfl
@[simp] theorem deliver_readTimeout (a : List Arrival) : (deliver a s).readTimeout = s.readTimeout := rfl
@[simp] theorem deliver_sess (a : List Arrival) : (deliver a s).sess = s.sess := rfl
@[simp] theorem deliver_lastSt (a : List Arrival) : (deliver a s).lastSt = s.lastSt := rfl
@[simp] theorem deliver_rts (a : List Arrival) : (deliver a s).rts = s.rts := rfl
@[simp] theorem deliver_tx (a : List Arrival) : (deliver a s).tx = s.tx := rfl
@[simp] theorem deliver_rx (a : List Arrival) : (deliver a s).rx = s.rx := rfl
@[simp] theorem deliver_rstate (a : List Arrival) : (deliver a s).rstate = s.rstate := rfl
@[simp] theorem deliver_hidx (a : List Arrival) : (deliver a s).hidx = s.hidx := rfl
@[simp] theorem deliver_rxLen (a : List Arrival) : (deliver a s).rxLen = s.rxLen := rfl
@[simp] theorem deliver_sstate (a : List Arrival) : (deliver a s).sstate = s.sstate := rfl
@[simp] theorem deliver_result (a : List Arrival) : (deliver a s).result = s.result := rfl
@[simp] theorem deliver_running (a : List Arrival) : (deliver a s).running = s.running := rfl
@[simp] theorem deliver_closing (a : List Arrival) : (deliver a s).closing = s.closing := rfl
@[simp] theorem deliver_rxIn (a : List Arrival) : (deliver a s).rxIn = s.rxIn ++ a := rfl
@[simp] theorem deliver_ctsIn (a : List Arrival) : (deliver a s).ctsIn = s.ctsIn := rfl
@[simp] theorem deliver_draws (a : List Arrival) : (deliver a s).draws = s.draws := rfl
@[simp] theorem deliver_inputs (a : List Arrival) : (deliver a s).inputs = s.inputs := rfl
@[simp] theorem deliver_history (a : List Arrival) : (deliver a s).history = s.history := rfl
@[simp] theorem deliver_arb (a : List Arrival) : (deliver a s).arb = s.arb := rfl
@[simp] theorem deliver_debug (a : List Arrival) : (deliver a s).debug = s.debug := rfl
@[simp] theorem deliver_abortOnTimeout (a : List Arrival) : (deliver a s).abortOnTimeout = s.abortOnTimeout := rfl
@[simp] theorem deliver_rxPacket (a : List Arrival) : (deliver a s).rxPacket = s.rxPacket := rfl
@[simp] theorem deliver_txPacket (a : List Arrival) : (deliver a s).txPacket = s.txPacket := rfl
@[simp] theorem deliver_busy (a : List Arrival) : (deliver a s).busy = s.busy := rfl

/-! `loadTx` -/

@[simp] theorem loadTx_localAddr (p : Packet) : (loadTx p s).localAddr = s.localAddr := rfl
@[simp] theorem loadTx_ctrl (p : Packet) : (loadTx p s).ctrl = s.ctrl := rfl
@[simp] theorem loadTx_readTimeout (p : Packet) : (loadTx p s).readTimeout = s.readTimeout := rfl
@[simp] theorem loadTx_sess (p : Packet) : (loadTx p s).sess = s.sess := rfl
@[simp] theorem loadTx_lastSt (p : Packet) : (loadTx p s).lastSt = s.lastSt := rfl
@[simp] theorem loadTx_rts (p : Packet) : (loadTx p s).rts = s.rts := rfl
@[simp] theorem loadTx_rx (p : Packet) : (loadTx p s).rx = s.rx := rfl
@[simp] theorem loadTx_rstate (p : Packet) : (loadTx p s).rstate = s.rstate := rfl
@[simp] theorem loadTx_hidx (p : Packet) : (loadTx p s).hidx = s.hidx := rfl
@[simp] theorem loadTx_rxLen (p : Packet) : (loadTx p s).rxLen = s.rxLen := rfl
@[simp] theorem loadTx_sstate (p : Packet) : (loadTx p s).sstate = s.sstate := rfl
@[simp] theorem loadTx_result (p : Packet) : (loadTx p s).result = s.result := rfl
@[simp] theorem loadTx_running (p : Packet) : (loadTx p s).running = s.running := rfl
@[simp] theorem loadTx_closing (p : Packet) : (loadTx p s).closing = s.closing := rfl
@[simp] theorem loadTx_rxIn (p : Packet) : (loadTx p s).rxIn = s.rxIn := rfl
@[simp] theorem loadTx_ctsIn (p : Packet) : (loadTx p s).ctsIn = s.ctsIn := rfl
@[simp] theorem loadTx_draws (p : Packet) : (loadTx p s).draws = s.draws := rfl
@[simp] theorem loadTx_inputs (p : Packet) : (loadTx p s).inputs = s.inputs := rfl
@[simp] theorem loadTx_history (p : Packet) : (loadTx p s).history = s.history := rfl
@[simp] theorem loadTx_arb (p : Packet) : (loadTx p s).arb = s.arb := rfl
@[simp] theorem loadTx_debug (p : Packet) : (loadTx p s).debug = s.debug := rfl
@[simp] theorem loadTx_abortOnTimeout (p : Packet) : (loadTx p s).abortOnTimeout = s.abortOnTimeout := rfl
@[simp] theorem loadTx_rxPacket (p : Packet) : (loadTx p s).rxPacket = s.rxPacket := rfl
@[simp] theorem loadTx_busy (p : Packet) : (loadTx p s).busy = s.busy := rfl

/-! `forgetRx` -/

@[simp] theorem forgetRx_localAddr : (forgetRx s).localAddr = s.localAddr := rfl
@[simp] theorem forgetRx_ctrl : (forgetRx s).ctrl = s.ctrl := rfl
@[simp] theorem forgetRx_readTimeout : (forgetRx s).readTimeout = s.readTimeout := rfl
@[simp] theorem forgetRx_sess : (forgetRx s).sess = s.sess := rfl
@[simp] theorem forgetRx_lastSt : (forgetRx s).lastSt = s.lastSt := rfl
@[simp] theorem forgetRx_rts : (forgetRx s).rts = s.rts := rfl
@[simp] theorem forgetRx_tx : (forgetRx s).tx = s.tx := rfl
@[simp] theorem forgetRx_rstate : (forgetRx s).rstate = s.rstate := rfl
@[simp] theorem forgetRx_hidx : (forgetRx s).hidx = s.hidx := rfl
@[simp] theorem forgetRx_rxLen : (forgetRx s).rxLen = s.rxLen := rfl
@[simp] theorem forgetRx_sstate : (forgetRx s).sstate = s.sstate := rfl
@[simp] theorem forgetRx_result : (forgetRx s).result = s.result := rfl
@[simp] theorem forgetRx_running : (forgetRx s).running = s.running := rfl
@[simp] theorem forgetRx_closing : (forgetRx s).closing = s.closing := rfl
@[simp] theorem forgetRx_rxIn : (forgetRx s).rxIn = s.rxIn := rfl
@[simp] theorem forgetRx_ctsIn : (forgetRx s).ctsIn = s.ctsIn := rfl
@[simp] theorem forgetRx_draws : (forgetRx s).draws = s.draws + rxFreeBytes := rfl
@[simp] theorem forgetRx_inputs : (forgetRx s).inputs = s.inputs := rfl
@[simp] theorem forgetRx_history : (forgetRx s).history = s.history := rfl
@[simp] theorem forgetRx_arb : (forgetRx s).arb = s.arb := rfl
@[simp] theorem forgetRx_debug : (forgetRx s).debug = s.debug := rfl
@[simp] theorem forgetRx_abortOnTimeout : (forgetRx s).abortOnTimeout = s.abortOnTimeout := rfl
@[simp] theorem forgetRx_txPacket : (forgetRx s).txPacket = s.txPacket := rfl
@[simp] theorem forgetRx_busy : (forgetRx s).busy = s.busy := rfl

/-! `accept` -/

@[simp] theorem accept_localAddr (op : OpName) (p : Point) : (accept op p s).localAddr = s.localAddr := rfl
@[simp] theorem accept_ctrl (op : OpName) (p : Point) : (accept op p s).ctrl = s.ctrl := rfl
@[simp] theorem accept_readTimeout (op : OpName) (p : Point) : (accept op p s).readTimeout = s.readTimeout := rfl
@[simp] theorem accept_sess (op : OpName) (p : Point) : (accept op p s).sess = s.sess := rfl
@[simp] theorem accept_lastSt (op : OpName) (p : Point) : (accept op p s).lastSt = s.lastSt := rfl
@[simp] theorem accept_rts (op : OpName) (p : Point) : (accept op p s).rts = s.rts := rfl
@[simp] theorem accept_tx (op : OpName) (p : Point) : (accept op p s).tx = s.tx := rfl
@[simp] theorem accept_rx (op : OpName) (p : Point) : (accept op p s).rx = s.rx := rfl
@[simp] theorem accept_rstate (op : OpName) (p : Point) : (accept op p s).rstate = s.rstate := rfl
@[simp] theorem accept_hidx (op : OpName) (p : Point) : (accept op p s).hidx = s.hidx := rfl
@[simp] theorem accept_rxLen (op : OpName) (p : Point) : (accept op p s).rxLen = s.rxLen := rfl
@[simp] theorem accept_sstate (op : OpName) (p : Point) : (accept op p s).sstate = s.sstate := rfl
@[simp] theorem accept_result (op : OpName) (p : Point) : (accept op p s).result = .empty := rfl
@[simp] theorem accept_running (op : OpName) (p : Point) : (accept op p s).running = some { op := op, point := p } := rfl
@[simp] theorem accept_closing (op : OpName) (p : Point) : (accept op p s).closing = s.closing := rfl
@[simp] theorem accept_rxIn (op : OpName) (p : Point) : (accept op p s).rxIn = s.rxIn := rfl
@[simp] theorem accept_ctsIn (op : OpName) (p : Point) : (accept op p s).ctsIn = s.ctsIn := rfl
@[simp] theorem accept_draws (op : OpName) (p : Point) : (accept op p s).draws = s.draws := rfl
@[simp] theorem accept_inputs (op : OpName) (p : Point) : (accept op p s).inputs = s.inputs := rfl
@[simp] theorem accept_history (op : OpName) (p : Point) : (accept op p s).history = s.history := rfl
@[simp] theorem accept_arb (op : OpName) (p : Point) : (accept op p s).arb = s.arb := rfl
@[simp] theorem accept_debug (op : OpName) (p : Point) : (accept op p s).debug = s.debug := rfl
@[simp] theorem accept_abortOnTimeout (op : OpName) (p : Point) : (accept op p s).abortOnTimeout = s.abortOnTimeout := rfl
@[simp] theorem accept_rxPacket (op : OpName) (p : Point) : (accept op p s).rxPacket = s.rxPacket := rfl
@[simp] theorem accept_txPacket (op : OpName) (p : Point) : (accept op p s).txPacket = s.txPacket := rfl

/-! `goto` -/

@[simp] theorem goto_localAddr (op : OpName) (p : Point) : (goto op p s).localAddr = s.localAddr := rfl
@[simp] theorem goto_ctrl (op : OpName) (p : Point) : (goto op p s).ctrl = s.ctrl := rfl
@[simp] theorem goto_readTimeout (op : OpName) (p : Point) : (goto op p s).readTimeout = s.readTimeout := rfl
@[simp] theorem goto_sess (op : OpName) (p : Point) : (goto op p s).sess = s.sess := rfl
@[simp] theorem goto_lastSt (op : OpName) (p : Point) : (goto op p s).lastSt = s.lastSt := rfl
@[simp] theorem goto_rts (op : OpName) (p : Point) : (goto op p s).rts = s.rts := rfl
@[simp] theorem goto_tx (op : OpName) (p : Point) : (goto op p s).tx = s.tx := rfl
@[simp] theorem goto_rx (op : OpName) (p : Point) : (goto op p s).rx = s.rx := rfl
@[simp] theorem goto_rstate (op : OpName) (p : Point) : (goto op p s).rstate = s.rstate := rfl
@[simp] theorem goto_hidx (op : OpName) (p : Point) : (goto op p s).hidx = s.hidx := rfl
@[simp] theorem goto_rxLen (op : OpName) (p : Point) : (goto op p s).rxLen = s.rxLen := rfl
@[simp] theorem goto_sstate (op : OpName) (p : Point) : (goto op p s).sstate = s.sstate := rfl
@[simp] theorem goto_result (op : OpName) (p : Point) : (goto op p s).result = s.result := rfl
@[simp] theorem goto_running (op : OpName) (p : Point) : (goto op p s).running = some { op := op, point := p } := rfl
@[simp] theorem goto_closing (op : OpName) (p : Point) : (goto op p s).closing = s.closing := rfl
@[simp] theorem goto_rxIn (op : OpName) (p : Point) : (goto op p s).rxIn = s.rxIn := rfl
@[simp] theorem goto_ctsIn (op : OpName) (p : Point) : (goto op p s).ctsIn = s.ctsIn := rfl
@[simp] theorem goto_draws (op : OpName) (p : Point) : (goto op p s).draws = s.draws := rfl
@[simp] theorem goto_inputs (op : OpName) (p : Point) : (goto op p s).inputs = s.inputs := rfl
@[simp] theorem goto_history (op : OpName) (p : Point) : (goto op p s).history = s.history := rfl
@[simp] theorem goto_arb (op : OpName) (p : Point) : (goto op p s).arb = s.arb := rfl
@[simp] theorem goto_debug (op : OpName) (p : Point) : (goto op p s).debug = s.debug := rfl
@[simp] theorem goto_abortOnTimeout (op : OpName) (p : Point) : (goto op p s).abortOnTimeout = s.abortOnTimeout := rfl
@[simp] theorem goto_rxPacket (op : OpName) (p : Point) : (goto op p s).rxPacket = s.rxPacket := rfl
@[simp] theorem goto_txPacket (op : OpName) (p : Point) : (goto op p s).txPacket = s.txPacket := rfl

/-! `finish` -/

@[simp] theorem finish_localAddr (op : OpName) (st : Status) (r : Result) : (finish op st r s).localAddr = s.localAddr := rfl
@[simp] theorem finish_ctrl (op : OpName) (st : Status) (r : Result) : (finish op st r s).ctrl = s.ctrl := rfl
@[simp] theorem finish_readTimeout (op : OpName) (st : Status) (r : Result) : (finish op st r s).readTimeout = s.readTimeout := rfl
@[simp] theorem finish_sess (op : OpName) (st : Status) (r : Result) : (finish op st r s).sess = s.sess := rfl
@[simp] theorem finish_lastSt (op : OpName) (st : Status) (r : Result) : (finish op st r s).lastSt = st := rfl
@[simp] theorem finish_rts (op : OpName) (st : Status) (r : Result) : (finish op st r s).rts = s.rts := rfl
@[simp] theorem finish_tx (op : OpName) (st : Status) (r : Result) : (finish op st r s).tx = s.tx := rfl
@[simp] theorem finish_rx (op : OpName) (st : Status) (r : Result) : (finish op st r s).rx = s.rx := rfl
@[simp] theorem finish_rstate (op : OpName) (st : Status) (r : Result) : (finish op st r s).rstate = s.rstate := rfl
@[simp] theorem finish_hidx (op : OpName) (st : Status) (r : Result) : (finish op st r s).hidx = s.hidx := rfl
@[simp] theorem finish_rxLen (op : OpName) (st : Status) (r : Result) : (finish op st r s).rxLen = s.rxLen := rfl
@[simp] theorem finish_sstate (op : OpName) (st : Status) (r : Result) : (finish op st r s).sstate = s.sstate := rfl
@[simp] theorem finish_result (op : OpName) (st : Status) (r : Result) : (finish op st r s).result = resultFor st r := rfl
@[simp] theorem finish_running (op : OpName) (st : Status) (r : Result) : (finish op st r s).running = s.running := rfl
@[simp] theorem finish_closing (op : OpName) (st : Status) (r : Result) : (finish op st r s).closing = s.closing := rfl
@[simp] theorem finish_rxIn (op : OpName) (st : Status) (r : Result) : (finish op st r s).rxIn = s.rxIn := rfl
@[simp] theorem finish_ctsIn (op : OpName) (st : Status) (r : Result) : (finish op st r s).ctsIn = s.ctsIn := rfl
@[simp] theorem finish_draws (op : OpName) (st : Status) (r : Result) : (finish op st r s).draws = s.draws := rfl
@[simp] theorem finish_inputs (op : OpName) (st : Status) (r : Result) : (finish op st r s).inputs = s.inputs := rfl
@[simp] theorem finish_history (op : OpName) (st : Status) (r : Result) : (finish op st r s).history = s.history ++ [.done op st (resultFor st r)] := rfl
@[simp] theorem finish_arb (op : OpName) (st : Status) (r : Result) : (finish op st r s).arb = s.arb := rfl
@[simp] theorem finish_debug (op : OpName) (st : Status) (r : Result) : (finish op st r s).debug = s.debug := rfl
@[simp] theorem finish_abortOnTimeout (op : OpName) (st : Status) (r : Result) : (finish op st r s).abortOnTimeout = s.abortOnTimeout := rfl
@[simp] theorem finish_rxPacket (op : OpName) (st : Status) (r : Result) : (finish op st r s).rxPacket = s.rxPacket := rfl
@[simp] theorem finish_txPacket (op : OpName) (st : Status) (r : Result) : (finish op st r s).txPacket = s.txPacket := rfl
@[simp] theorem finish_busy (op : OpName) (st : Status) (r : Result) : (finish op st r s).busy = s.busy := rfl

/-! `complete` -/

@[simp] theorem complete_localAddr (op : OpName) (st : Status) (r : Result) : (complete op st r s).localAddr = s.localAddr := rfl
@[simp] theorem complete_ctrl (op : OpName) (st : Status) (r : Result) : (complete op st r s).ctrl = s.ctrl := rfl
@[simp] theorem complete_readTimeout (op : OpName) (st : Status) (r : Result) : (complete op st r s).readTimeout = s.readTimeout := rfl
@[simp] theorem complete_sess (op : OpName) (st : Status) (r : Result) : (complete op st r s).sess = s.sess := rfl
@[simp] theorem complete_lastSt (op : OpName) (st : Status) (r : Result) : (complete op st r s).lastSt = st := rfl
@[simp] theorem complete_rts (op : OpName) (st : Status) (r : Result) : (complete op st r s).rts = s.rts := rfl
@[simp] theorem complete_tx (op : OpName) (st : Status) (r : Result) : (complete op st r s).tx = s.tx := rfl
@[simp] theorem complete_rx (op : OpName) (st : Status) (r : Result) : (complete op st r s).rx = s.rx := rfl
@[simp] theorem complete_rstate (op : OpName) (st : Status) (r : Result) : (complete op st r s).rstate = s.rstate := rfl
@[simp] theorem complete_hidx (op : OpName) (st : Status) (r : Result) : (complete op st r s).hidx = s.hidx := rfl
@[simp] theorem complete_rxLen (op : OpName) (st : Status) (r : Result) : (complete op st r s).rxLen = s.rxLen := rfl
@[simp] theorem complete_sstate (op : OpName) (st : Status) (r : Result) : (complete op st r s).sstate = .idle := rfl
@[simp] theorem complete_result (op : OpName) (st : Status) (r : Result) : (complete op st r s).result = resultFor st r := rfl
@[simp] theorem complete_running (op : OpName) (st : Status) (r : Result) : (complete op st r s).running = none := rfl
@[simp] theorem complete_closing (op : OpName) (st : Status) (r : Result) : (complete op st r s).closing = s.closing := rfl
@[simp] theorem complete_rxIn (op : OpName) (st : Status) (r : Result) : (complete op st r s).rxIn = s.rxIn := rfl
@[simp] theorem complete_ctsIn (op : OpName) (st : Status) (r : Result) : (complete op st r s).ctsIn = s.ctsIn := rfl
@[simp] theorem complete_draws (op : OpName) (st : Status) (r : Result) : (complete op st r s).draws = s.draws := rfl
@[simp] theorem complete_inputs (op : OpName) (st : Status) (r : Result) : (complete op st r s).inputs = s.inputs := rfl
@[simp] theorem complete_history (op : OpName) (st : Status) (r : Result) : (complete op st r s).history = s.history ++ [.done op st (resultFor st r)] := rfl
@[simp] theorem complete_arb (op : OpName) (st : Status) (r : Result) : (complete op st r s).arb = s.arb := rfl
@[simp] theorem complete_debug (op : OpName) (st : Status) (r : Result) : (complete op st r s).debug = s.debug := rfl
@[simp] theorem complete_abortOnTimeout (op : OpName) (st : Status) (r : Result) : (complete op st r s).abortOnTimeout = s.abortOnTimeout := rfl
@[simp] theorem complete_rxPacket (op : OpName) (st : Status) (r : Result) : (complete op st r s).rxPacket = s.rxPacket := rfl
@[simp] theorem complete_txPacket (op : OpName) (st : Status) (r : Result) : (complete op st r s).txPacket = s.txPacket := rfl

/-! `refuse` -/

@[simp] theorem refuse_localAddr (op : OpName) : (refuse op s).localAddr = s.localAddr := rfl
@[simp] theorem refuse_ctrl (op : OpName) : (refuse op s).ctrl = s.ctrl := rfl
@[simp] theorem refuse_readTimeout (op : OpName) : (refuse op s).readTimeout = s.readTimeout := rfl
@[simp] theorem refuse_sess (op : OpName) : (refuse op s).sess = s.sess := rfl
@[simp] theorem refuse_lastSt (op : OpName) : (refuse op s).lastSt = .refused := rfl
@[simp] theorem refuse_rts (op : OpName) : (refuse op s).rts = s.rts := rfl
@[simp] theorem refuse_tx (op : OpName) : (refuse op s).tx = s.tx := rfl
@[simp] theorem refuse_rx (op : OpName) : (refuse op s).rx = s.rx := rfl
@[simp] theorem refuse_rstate (op : OpName) : (refuse op s).rstate = s.rstate := rfl
@[simp] theorem refuse_hidx (op : OpName) : (refuse op s).hidx = s.hidx := rfl
@[simp] theorem refuse_rxLen (op : OpName) : (refuse op s).rxLen = s.rxLen := rfl
@[simp] theorem refuse_sstate (op : OpName) : (refuse op s).sstate = s.sstate := rfl
@[simp] theorem refuse_result (op : OpName) : (refuse op s).result = .empty := rfl
@[simp] theorem refuse_running (op : OpName) : (refuse op s).running = s.running := rfl
@[simp] theorem refuse_closing (op : OpName) : (refuse op s).closing = s.closing := rfl
@[simp] theorem refuse_rxIn (op : OpName) : (refuse op s).rxIn = s.rxIn := rfl
@[simp] theorem refuse_ctsIn (op : OpName) : (refuse op s).ctsIn = s.ctsIn := rfl
@[simp] theorem refuse_draws (op : OpName) : (refuse op s).draws = s.draws := rfl
@[simp] theorem refuse_inputs (op : OpName) : (refuse op s).inputs = s.inputs := rfl
@[simp] theorem refuse_history (op : OpName) : (refuse op s).history = s.history ++ [.done op .refused .empty] := rfl
@[simp] theorem refuse_arb (op : OpName) : (refuse op s).arb = s.arb := rfl
@[simp] theorem refuse_debug (op : OpName) : (refuse op s).debug = s.debug := rfl
@[simp] theorem refuse_abortOnTimeout (op : OpName) : (refuse op s).abortOnTimeout = s.abortOnTimeout := rfl
@[simp] theorem refuse_rxPacket (op : OpName) : (refuse op s).rxPacket = s.rxPacket := rfl
@[simp] theorem refuse_txPacket (op : OpName) : (refuse op s).txPacket = s.txPacket := rfl
@[simp] theorem refuse_busy (op : OpName) : (refuse op s).busy = s.busy := rfl

/-! `startRead` -/

@[simp] theorem startRead_localAddr : (startRead s).localAddr = s.localAddr := rfl
@[simp] theorem startRead_ctrl : (startRead s).ctrl = s.ctrl := rfl
@[simp] theorem startRead_readTimeout : (startRead s).readTimeout = s.readTimeout := rfl
@[simp] theorem startRead_sess : (startRead s).sess = s.sess := rfl
@[simp] theorem startRead_lastSt : (startRead s).lastSt = s.lastSt := rfl
@[simp] theorem startRead_rts : (startRead s).rts = s.rts := rfl
@[simp] theorem startRead_tx : (startRead s).tx = s.tx := rfl
@[simp] theorem startRead_rx : (startRead s).rx = { s.rx with cnt := 0, chkPresent := false } := rfl
@[simp] theorem startRead_rstate : (startRead s).rstate = .scanning := rfl
@[simp] theorem startRead_hidx : (startRead s).hidx = 0 := rfl
@[simp] theorem startRead_rxLen : (startRead s).rxLen = s.rxLen := rfl
@[simp] theorem startRead_sstate : (startRead s).sstate = s.sstate := rfl
@[simp] theorem startRead_result : (startRead s).result = s.result := rfl
@[simp] theorem startRead_running : (startRead s).running = s.running := rfl
@[simp] theorem startRead_closing : (startRead s).closing = s.closing := rfl
@[simp] theorem startRead_rxIn : (startRead s).rxIn = s.rxIn := rfl
@[simp] theorem startRead_ctsIn : (startRead s).ctsIn = s.ctsIn := rfl
@[simp] theorem startRead_draws : (startRead s).draws = s.draws := rfl
@[simp] theorem startRead_inputs : (startRead s).inputs = s.inputs := rfl
@[simp] theorem startRead_history : (startRead s).history = s.history := rfl
@[simp] theorem startRead_arb : (startRead s).arb = s.arb := rfl
@[simp] theorem startRead_debug : (startRead s).debug = s.debug := rfl
@[simp] theorem startRead_abortOnTimeout : (startRead s).abortOnTimeout = s.abortOnTimeout := rfl
@[simp] theorem startRead_txPacket : (startRead s).txPacket = s.txPacket := rfl
@[simp] theorem startRead_busy : (startRead s).busy = s.busy := rfl

end Sys2Proof.Machine
end

