-- ==== Sys2Proof/Laws/Cases.lean ====
section
/-! SUPPORT. What a step, a presented operation, and each answer of the environment can do, said once, by cases: proofs
cite these and do not unfold `step`, `exec`, `takeArrival`, `takeCts` or `readerByte`. -/

namespace Sys2Proof.Machine

theorem quiet_iff_not_occupied {s : State} : s.quiet ↔ s.occupied = false := by
  unfold State.quiet State.occupied State.busy
  cases s.running <;> simp

@[simp] theorem busy_eq_false_iff {s : State} : s.busy = false ↔ s.running = none := by
  unfold State.busy
  cases s.running <;> simp

theorem not_busy_of_none {s : State} (h : s.running = none) : s.busy = false := busy_eq_false_iff.mpr h

/-- What a step is, by what is fetched. -/
theorem step_cases {s t : State} (h : step s = .next t) :
    (∃ i s', fetch s = (.operation i, s') ∧ exec i s' = .next t) ∨
    (∃ s', fetch s = (.reservedCommand, s') ∧ t = refuse .reserved s') ∨
    (∃ a s', fetch s = (.arrivals a, s') ∧ t = deliver a s') ∨
    (∃ s', fetch s = (.resetInput, s') ∧ t = resetBlock s') ∨
    (∃ s', fetch s = (.engine, s') ∧ t = engineStep s') := by
  unfold step at h
  split at h
  · next i s' hf => exact .inl ⟨i, s', hf, h⟩
  · next s' hf => cases h; exact .inr (.inl ⟨s', hf, rfl⟩)
  · next a s' hf => cases h; exact .inr (.inr (.inl ⟨a, s', hf, rfl⟩))
  · next s' hf => cases h; exact .inr (.inr (.inr (.inl ⟨s', hf, rfl⟩)))
  · next s' hf => cases h; exact .inr (.inr (.inr (.inr ⟨s', hf, rfl⟩)))

/-- Fetching changes the inputs alone. -/
theorem fetch_state (s : State) : (fetch s).2 = { s with inputs := (fetch s).2.inputs } := by
  unfold fetch
  split
  · rfl
  · split
    · split <;> rfl
    · rfl
    · split <;> rfl

@[simp] theorem waitsForClose_reserved (s : State) : waitsForClose .reservedCommand s = false := rfl
@[simp] theorem waitsForClose_arrivals (a : List Arrival) (s : State) : waitsForClose (.arrivals a) s = false := rfl
@[simp] theorem waitsForClose_reset (s : State) : waitsForClose .resetInput s = false := rfl

/-- Only an operation of the host waits, and only for a CLOSE that proceeds next. -/
theorem waitsForClose_operation {i : Instr} {s : State} :
    waitsForClose (.operation i) s = true ↔ issuedByHost i = true ∧ s.running = none ∧ s.closing ≠ 0 := by
  simp [waitsForClose, State.closeIsNext]

/-- What is due now and need not wait is taken. -/
theorem fetch_now {s : State} {what : Stimulus} {later : List Input}
    (h : s.inputs = { timing := .after 0, what := what } :: later) (hw : waitsForClose (interpret what) s = false) :
    fetch s = (interpret what, { s with inputs := later }) := by
  simp [fetch, h, hw]

/-- An operation that waits leaves the step to the engine, and every input where it is. -/
theorem fetch_waiting {s : State} {what : Stimulus} {later : List Input}
    (h : s.inputs = { timing := .after 0, what := what } :: later) (hw : waitsForClose (interpret what) s = true) :
    fetch s = (.engine, s) := by
  simp [fetch, h, hw]

/-- What is taken while an accepted CLOSE is the next to proceed is no operation that the host issued. -/
theorem fetch_closeIsNext {s s' : State} {i : Instr} (hr : s.running = none) (hc : s.closing ≠ 0)
    (h : fetch s = (.operation i, s')) : issuedByHost i = false := by
  unfold fetch at h
  split at h
  · cases h
  · split at h
    · split at h
      · cases h
      · next hw =>
        have hi := congrArg Prod.fst h
        simp only at hi
        rw [hi, waitsForClose_operation] at hw
        simpa [hr, hc] using hw
    · cases h
    · simp [State.occupied, hc] at h

/-- What one or more CLOSEs do, one after the other (R198). -/
theorem closeEach_succ (n : Nat) (s : State) :
    closeEach (n + 1) s =
      { s with
        rts := false, sess := .closed, sstate := .idle, rxIn := [], lastSt := .ok, result := .empty,
        history := s.history ++ closeEvents (n + 1) } := by
  induction n generalizing s with
  | zero => simp [closeEach, closeBody, finish, emit, setRts, resultFor, closeEvents]
  | succ n ih =>
    rw [closeEach, ih]
    simp [closeBody, finish, emit, setRts, resultFor, closeEvents, List.replicate_succ]

/-- What CLOSEs that proceed leave as it is. -/
theorem proceedClose_state (n : Nat) (s : State) :
    proceedClose n s =
      { s with
        rts := (proceedClose n s).rts, sess := (proceedClose n s).sess, sstate := (proceedClose n s).sstate,
        rxIn := (proceedClose n s).rxIn, lastSt := (proceedClose n s).lastSt, result := (proceedClose n s).result,
        closing := 0, history := s.history ++ closeEvents n } := by
  cases n with
  | zero => simp [proceedClose, closeEach, closeEvents]
  | succ n =>
    unfold proceedClose
    rw [closeEach_succ]

/-- What a presented operation can lead to (R200 and the rule of each operation). -/
inductive ExecCase (i : Instr) (s : State) : State → Prop
  | refused (op : OpName) : ExecCase i s (refuse op s)
  | finished (op : OpName) (st : Status) (res : Result) (hq : s.running = none) : ExecCase i s (finish op st res s)
  | built (src rcv cmd : Int) (data : List Int) (p : Packet) (hi : i = .build src rcv cmd data) (hq : s.running = none)
      (hp : construct src rcv cmd data = some p) : ExecCase i s (finish .build .ok (.packet p) (loadTx p s))
  | opened (addr ctrl timeout : Byte) (hi : i = .openSession addr ctrl timeout) (hs : s.sess = .closed)
      (hq : s.running = none) :
      ExecCase i s
        (finish .openSession .ok .empty
          { setRts false { s with localAddr := addr, ctrl := ctrlOfOperand ctrl, readTimeout := timeout } with
            sstate := .idle, sess := .opened })
  | closePending (hi : i = .closeSession) (hs : s.sess = .opened) (hr : s.running ≠ none) :
      ExecCase i s { s with closing := s.closing + 1, result := .empty }
  | closed (hi : i = .closeSession) (hs : s.sess = .opened) (hq : s.running = none) :
      ExecCase i s (proceedClose (s.closing + 1) s)
  | readStarted (hi : i = .readPacket) (hs : s.sess = .opened) (hq : s.running = none) :
      ExecCase i s (startRead (accept .readPacket .read s))
  | receiveStarted (hi : i = .receive) (hs : s.sess = .opened) (hq : s.running = none) :
      ExecCase i s (beginReceive (accept .receive .read s))
  | takeStarted (hi : i = .takeBus) (hs : s.sess = .opened) (hq : s.running = none) (ha : s.arb = true) :
      ExecCase i s (accept .takeBus .sample s)
  | released (hi : i = .releaseBus) (hs : s.sess = .opened) (hq : s.running = none) :
      ExecCase i s (finish .releaseBus .ok .empty (releaseBus s))
  | sendStarted (dst cmd : Int) (data : List Int) (p : Packet) (hi : i = .send dst cmd data) (hs : s.sess = .opened)
      (hq : s.running = none) (hp : construct s.localAddr.toNat dst cmd data = some p) :
      ExecCase i s (beginSend .send (loadTx p s))
  | sendReceiveStarted (dst cmd : Int) (data : List Int) (p : Packet) (hi : i = .sendReceive dst cmd data)
      (hs : s.sess = .opened) (hq : s.running = none) (hp : construct s.localAddr.toNat dst cmd data = some p) :
      ExecCase i s (beginSend .sendReceive (loadTx p s))
  | frameArrived (len src rcv cmd : Byte) (payload : List Byte) (check : Byte)
      (hi : i = .frame len src rcv cmd payload check) :
      ExecCase i s (deliver ((frameBytes len src rcv cmd payload check).map .byte) s)

/-- A Codec operation is refused while busy, or runs in this step (R120). -/
theorem codecStep_cases {op : OpName} {run : State → State} {s t : State}
    (ho : op = .build ∨ op = .encode ∨ op = .checksumValid ∨ op = .describe ∨ op = .intTo3Bytes)
    (h : codecStep op run s = .next t) : t = refuse op s ∨ (s.running = none ∧ t = run s) := by
  unfold codecStep at h
  split at h
  · next ha =>
    cases h
    refine .inr ⟨?_, rfl⟩
    rcases ho with rfl | rfl | rfl | rfl | rfl <;> simpa [admitted] using ha
  · cases h
    exact .inl rfl

/-- An operation on the line is admitted only in an open session and not busy (R200). -/
theorem line_admitted {op : OpName} {s : State}
    (ho : op = .readPacket ∨ op = .takeBus ∨ op = .releaseBus ∨ op = .send ∨ op = .receive ∨ op = .sendReceive)
    (ha : admitted op s = true) : s.sess = .opened ∧ s.running = none := by
  rcases ho with rfl | rfl | rfl | rfl | rfl | rfl <;> simpa [admitted] using ha

theorem finishOption_case {i : Instr} {s : State} (op : OpName) (res : Option Result) (hq : s.running = none) :
    ExecCase i s (finishOption op res s) := by
  cases res
  · exact .refused op
  · exact .finished _ _ _ hq

theorem exec_cases {i : Instr} {s t : State} (h : exec i s = .next t) : ExecCase i s t := by
  cases i with
  | openSession addr ctrl timeout =>
    simp only [exec, execOpen] at h
    split at h
    · next ha =>
      cases h
      have : s.sess = .closed ∧ s.running = none := by simpa [admitted] using ha
      exact .opened addr ctrl timeout rfl this.1 this.2
    · cases h; exact .refused _
  | closeSession =>
    simp only [exec, execClose] at h
    split at h
    · next ha =>
      have ho : s.sess = .opened := by simpa [admitted] using ha
      cases h
      split
      · next hb => exact .closePending rfl ho (fun hn => by simp [not_busy_of_none hn] at hb)
      · next hb => exact .closed rfl ho (by simpa using hb)
    · cases h; exact .refused _
  | build src rcv cmd data =>
    rw [exec, execBuild] at h
    rcases codecStep_cases (by simp) h with rfl | ⟨hq, rfl⟩
    · exact .refused _
    · show ExecCase _ s (match construct src rcv cmd data with | some p => _ | none => _)
      split
      · next p hp => exact .built src rcv cmd data p rfl hq hp
      · exact .finished _ _ _ hq
  | encode sel =>
    rcases codecStep_cases (by simp) h with rfl | ⟨hq, rfl⟩
    · exact .refused _
    · exact finishOption_case _ _ hq
  | checksumValid sel =>
    rcases codecStep_cases (by simp) h with rfl | ⟨hq, rfl⟩
    · exact .refused _
    · exact finishOption_case _ _ hq
  | describe sel =>
    rcases codecStep_cases (by simp) h with rfl | ⟨hq, rfl⟩
    · exact .refused _
    · exact finishOption_case _ _ hq
  | intTo3Bytes v =>
    rw [exec, execIntTo3Bytes] at h
    rcases codecStep_cases (by simp) h with rfl | ⟨hq, rfl⟩
    · exact .refused _
    · exact .finished _ _ _ hq
  | readPacket =>
    simp only [exec, execReadPacket] at h
    split at h
    · next ha => cases h; have := line_admitted (by simp) ha; exact .readStarted rfl this.1 this.2
    · cases h; exact .refused _
  | takeBus =>
    simp only [exec, execTakeBus] at h
    split at h
    · next ha =>
      cases h
      have := line_admitted (by simp) ha
      split
      · next hb => exact .takeStarted rfl this.1 this.2 hb
      · exact .finished _ _ _ this.2
    · cases h; exact .refused _
  | releaseBus =>
    simp only [exec, execReleaseBus] at h
    split at h
    · next ha => cases h; have := line_admitted (by simp) ha; exact .released rfl this.1 this.2
    · cases h; exact .refused _
  | send dst cmd data =>
    simp only [exec, execSend, execSendLike] at h
    split at h
    · next ha =>
      have := line_admitted (by simp) ha
      split at h
      · next p hp => cases h; exact .sendStarted dst cmd data p rfl this.1 this.2 hp
      · cases h; exact .finished _ _ _ this.2
    · cases h; exact .refused _
  | receive =>
    simp only [exec, execReceive] at h
    split at h
    · next ha => cases h; have := line_admitted (by simp) ha; exact .receiveStarted rfl this.1 this.2
    · cases h; exact .refused _
  | sendReceive dst cmd data =>
    simp only [exec, execSendReceive, execSendLike] at h
    split at h
    · next ha =>
      have := line_admitted (by simp) ha
      split at h
      · next p hp => cases h; exact .sendReceiveStarted dst cmd data p rfl this.1 this.2 hp
      · cases h; exact .finished _ _ _ this.2
    · cases h; exact .refused _
  | reserved0D => cases h; exact .refused _
  | reserved0E => cases h; exact .refused _
  | reserved0F => cases h; exact .refused _
  | frame len src rcv cmd payload check => cases h; exact .frameArrived len src rcv cmd payload check rfl

/-- An `RxRead()` answer changes the transport's queue and the draws alone. -/
theorem takeArrival_state (s : State) :
    (takeArrival s).2 = { s with rxIn := (takeArrival s).2.rxIn, draws := (takeArrival s).2.draws } := by
  unfold takeArrival
  split <;> rfl

/-- A CTS sample changes the scripted levels and the draws alone. -/
theorem takeCts_state (s : State) :
    (takeCts s).2 = { s with ctsIn := (takeCts s).2.ctsIn, draws := (takeCts s).2.draws } := by
  unfold takeCts
  split <;> rfl

/-- A byte changes the Reader's registers alone. -/
theorem readerByte_state (b : Byte) (s : State) :
    readerByte b s =
      { s with
        rx := (readerByte b s).rx, rstate := (readerByte b s).rstate, hidx := (readerByte b s).hidx,
        rxLen := (readerByte b s).rxLen } := by
  unfold readerByte
  split
  · split <;> rfl
  · unfold headerByte
    split
    · split <;> rfl
    all_goals rfl
  all_goals rfl

/-- What the Reader does with a byte does not depend on the queue or the history. -/
theorem readerByte_outside (b : Byte) (s : State) (queue : List Arrival) (history : List Event) :
    readerByte b { s with rxIn := queue, history := history } =
      { readerByte b s with rxIn := queue, history := history } := by
  cases hr : s.rstate <;> simp only [readerByte, hr]
  · split <;> simp only [hr]
  · unfold headerByte
    simp only [hr]
    split
    · split <;> simp only
    all_goals simp only
  · simp only [payloadByte]

/-- A noise byte changes nothing in the Reader (R152). -/
theorem readerByte_of_noise {b : Byte} {s : State} (h : isNoise b s = true) : readerByte b s = s := by
  have := Bool.and_eq_true_iff.mp h
  have h1 : s.rstate = .scanning := of_decide_eq_true this.1
  have h2 : b ≠ Config.som := by simpa using this.2
  simp [readerByte, h1, h2]

theorem isNoise_of_not_scanning {b : Byte} {s : State} (h : s.rstate ≠ .scanning) : isNoise b s = false := by
  simp [isNoise, h]

/-- An `RxRead()` that answers a waiting byte. -/
theorem readStep_byte {s : State} {op : OpName} {b : Byte} {more : List Arrival} (hc : s.closing = 0)
    (hs : s.rxIn = .byte b :: more) :
    readStep op s =
      (let dropped := ({ s with rxIn := more } : State).withEvents [.rx (.byte b)]
      let taken := ({ readerByte b s with rxIn := more } : State).withEvents [.rx (.byte b)]
      if isNoise b s then (if s.debug then goto op (.debugNoise b) dropped else dropped)
      else if taken.rstate = .done then (if s.debug then goto op .debugRx taken else packetRead op taken)
      else taken) := by
  have h1 : isNoise b (emit (.rx (.byte b)) { s with rxIn := more }) = isNoise b s := rfl
  have h2 : readerByte b (emit (.rx (.byte b)) { s with rxIn := more }) =
      ({ readerByte b s with rxIn := more } : State).withEvents [.rx (.byte b)] := by
    have h3 : (readerByte b s).history = s.history := by rw [readerByte_state]
    refine (readerByte_outside b s more (s.history ++ [.rx (.byte b)])).trans ?_
    simp [State.withEvents, h3]
  have h3 : (({ readerByte b s with rxIn := more } : State).withEvents [.rx (.byte b)]).debug = s.debug := by
    rw [readerByte_state]
    rfl
  have h4 : takeArrival s = (.byte b, { s with rxIn := more }) := by
    unfold takeArrival
    rw [hs]
  rw [readStep, if_neg (by simp [hc]), h4]
  simp only [h1, h2, h3]
  rfl

/-- An `RxRead()` that times out. -/
theorem readStep_silence {s : State} {op : OpName} {more : List Arrival} (hc : s.closing = 0)
    (hs : s.rxIn = .silence :: more) :
    readStep op s =
      (let waited := ({ s with rxIn := more } : State).withEvents [.rx .noByte]
      if silenceEndsRead s then noPacketRead op waited else waited) := by
  have h : takeArrival s = (.silence, { s with rxIn := more }) := by
    unfold takeArrival
    rw [hs]
  rw [readStep, if_neg (by simp [hc]), h]
  rfl

/-- What no interaction of a running operation touches: the configuration, the session, the TX packet register, the
inputs and a pending CLOSE; and events are only added. -/
structure Kept (s t : State) : Prop where
  localAddr : t.localAddr = s.localAddr
  ctrl : t.ctrl = s.ctrl
  readTimeout : t.readTimeout = s.readTimeout
  tx : t.tx = s.tx
  inputs : t.inputs = s.inputs
  sess : t.sess = s.sess
  closing : t.closing = s.closing
  history : ∃ events, t.history = s.history ++ events

theorem Kept.refl (s : State) : Kept s s := ⟨rfl, rfl, rfl, rfl, rfl, rfl, rfl, [], by simp⟩

theorem Kept.trans {s t u : State} (h : Kept s t) (h' : Kept t u) : Kept s u := by
  obtain ⟨e, he⟩ := h.history
  obtain ⟨e', he'⟩ := h'.history
  exact ⟨h'.1.trans h.1, h'.2.trans h.2, h'.3.trans h.3, h'.4.trans h.4, h'.5.trans h.5, h'.6.trans h.6,
    h'.7.trans h.7, e ++ e', by rw [he', he, List.append_assoc]⟩

theorem kept_emit (e : Event) (s : State) : Kept s (emit e s) := ⟨rfl, rfl, rfl, rfl, rfl, rfl, rfl, [e], rfl⟩

theorem kept_goto (op : OpName) (p : Point) (s : State) : Kept s (goto op p s) :=
  ⟨rfl, rfl, rfl, rfl, rfl, rfl, rfl, [], by simp⟩

theorem kept_complete (op : OpName) (st : Status) (res : Result) (s : State) : Kept s (complete op st res s) :=
  ⟨rfl, rfl, rfl, rfl, rfl, rfl, rfl, _, rfl⟩

theorem kept_forgetRx (s : State) : Kept s (forgetRx s) := ⟨rfl, rfl, rfl, rfl, rfl, rfl, rfl, [], by simp⟩

theorem kept_startRead (s : State) : Kept s (startRead s) := ⟨rfl, rfl, rfl, rfl, rfl, rfl, rfl, [], by simp⟩

theorem kept_setRts (v : Bool) (s : State) : Kept s (setRts v s) := ⟨rfl, rfl, rfl, rfl, rfl, rfl, rfl, _, rfl⟩

theorem kept_sstate (q : SeqState) (s : State) : Kept s { s with sstate := q } :=
  ⟨rfl, rfl, rfl, rfl, rfl, rfl, rfl, [], by simp⟩

theorem kept_releaseBus (s : State) : Kept s (releaseBus s) := by
  unfold releaseBus
  split
  exacts [kept_setRts _ _, .refl _]

theorem kept_takeArrival (s : State) : Kept s (takeArrival s).2 := by
  unfold takeArrival
  split <;> exact ⟨rfl, rfl, rfl, rfl, rfl, rfl, rfl, [], by simp⟩

theorem kept_takeCts (s : State) : Kept s (takeCts s).2 := by
  unfold takeCts
  split <;> exact ⟨rfl, rfl, rfl, rfl, rfl, rfl, rfl, [], by simp⟩

theorem kept_readerByte (b : Byte) (s : State) : Kept s (readerByte b s) := by
  rw [readerByte_state]
  exact ⟨rfl, rfl, rfl, rfl, rfl, rfl, rfl, [], by simp⟩

theorem kept_readAgain (op : OpName) (s : State) : Kept s (readAgain op s) :=
  (kept_startRead s).trans (kept_goto _ _ _)

theorem kept_packetRead (op : OpName) (s : State) : Kept s (packetRead op s) := by
  unfold packetRead
  repeat' split
  exacts [kept_complete _ _ _ _, kept_goto _ _ _, kept_complete _ _ _ _, kept_goto _ _ _, kept_readAgain _ _]

theorem kept_afterTakeBus (op : OpName) (s : State) : Kept s (afterTakeBus op s) := by
  unfold afterTakeBus
  split
  · exact kept_complete _ _ _ _
  · exact (kept_sstate _ s).trans (kept_goto _ _ _)

/-- Every interaction of a running operation keeps what `Kept` says. -/
theorem kept_taskStep (t : Task) (s : State) : Kept s (taskStep t s) := by
  obtain ⟨op, p⟩ := t
  unfold taskStep
  cases p <;> simp only
  case sample =>
    unfold sampleStep
    split
    · exact (kept_emit _ s).trans (kept_complete _ _ _ _)
    · have := kept_takeCts s
      generalize takeCts s = r at this ⊢
      simp only
      split
      · exact this.trans (kept_emit _ _)
      · exact (this.trans (kept_emit _ _)).trans (kept_goto _ _ _)
  case assertRts => exact (kept_setRts _ s).trans (kept_afterTakeBus _ _)
  case debugTx => exact (kept_emit _ s).trans (kept_goto _ _ _)
  case write =>
    unfold writeStep
    simp only
    split
    · exact (((kept_emit _ s).trans (kept_sstate _ _)).trans (kept_startRead _)).trans (kept_goto _ _ _)
    · exact (kept_emit _ s).trans (kept_complete _ _ _ _)
  case read =>
    unfold readStep
    split
    · exact (kept_emit _ s).trans (kept_complete _ _ _ _)
    · have h := kept_takeArrival s
      generalize takeArrival s = r at h ⊢
      obtain ⟨a, s1⟩ := r
      simp only at h ⊢
      cases a with
      | silence =>
        simp only
        split
        · exact ((h.trans (kept_emit _ _)).trans (kept_forgetRx _)).trans (kept_complete _ _ _ _)
        · exact h.trans (kept_emit _ _)
      | byte b =>
        simp only
        split
        · split
          · exact (h.trans (kept_emit _ _)).trans (kept_goto _ _ _)
          · exact h.trans (kept_emit _ _)
        · have h3 := (h.trans (kept_emit (.rx (.byte b)) s1)).trans (kept_readerByte b _)
          split
          · split
            · exact h3.trans (kept_goto _ _ _)
            · exact h3.trans (kept_packetRead _ _)
          · exact h3
  case debugNoise b => exact (kept_emit _ s).trans (kept_goto _ _ _)
  case debugRx => exact (kept_emit _ s).trans (kept_packetRead _ _)
  case release => exact ((kept_releaseBus s).trans (kept_sstate _ _)).trans (kept_readAgain _ _)
  case debugIgnored => exact (kept_emit _ s).trans (kept_readAgain _ _)

end Sys2Proof.Machine
end

