-- ==== Sys2Proof/Laws/Decode.lean ====
section
/-! SUPPORT. Lemmas about the pieces of the decoder and the encoder: splitting off bytes, operands as bytes, the payload
operands, and the four bytes of a value. -/

namespace Sys2Proof

theorem splitBytes_append (front back : List Byte) : splitBytes front.length (front ++ back) = some (front, back) := by
  induction front with
  | nil => rfl
  | cons b front ih => simp [splitBytes, ih]

theorem splitBytes_eq_some {n : Nat} {l front back : List Byte} (h : splitBytes n l = some (front, back)) :
    l = front ++ back ∧ front.length = n := by
  induction n generalizing l front with
  | zero =>
    simp [splitBytes] at h
    simp [h.1.symm, h.2]
  | succ n ih =>
    cases l with
    | nil => simp [splitBytes] at h
    | cons b l =>
      simp only [splitBytes] at h
      split at h
      · next hs =>
        cases h
        obtain ⟨rfl, rfl⟩ := ih hs
        simp
      · cases h

/-- Fewer bytes than asked for are none. -/
theorem splitBytes_short {n : Nat} {l : List Byte} (h : l.length < n) : splitBytes n l = none := by
  cases hs : splitBytes n l with
  | none => rfl
  | some r =>
    obtain ⟨rfl, rfl⟩ := splitBytes_eq_some (l := l) (front := r.1) (back := r.2) hs
    simp at h

theorem isByte_iff {x : Int} : isByte x = true ↔ 0 ≤ x ∧ x ≤ 255 := by simp [isByte]

theorem operandOfByte_byteOfOperand {x : Int} (h : 0 ≤ x ∧ x ≤ 255) : operandOfByte (byteOfOperand x) = x := by
  unfold operandOfByte byteOfOperand
  rw [BitVec.toNat_ofInt]
  omega

theorem byteOfOperand_operandOfByte (b : Byte) : byteOfOperand (operandOfByte b) = b := by
  apply BitVec.eq_of_toNat_eq
  unfold operandOfByte byteOfOperand
  rw [BitVec.toNat_ofInt]
  have := b.isLt
  omega

theorem map_operandOfByte_byteOfOperand {data : List Int} (h : data.all isByte = true) :
    data.map (operandOfByte ∘ byteOfOperand) = data := by
  induction data with
  | nil => rfl
  | cons x data ih =>
    simp only [List.all_cons, Bool.and_eq_true] at h
    simp [operandOfByte_byteOfOperand (isByte_iff.1 h.1), ih h.2]

/-- The payload operands decode to themselves, with nothing left over. -/
theorem decodeData_encodeData {data : List Int} (h : isData data = true) :
    decodeData (encodeData data) = some (data, []) := by
  simp only [isData, Bool.and_eq_true, decide_eq_true_eq] at h
  have hl : (BitVec.ofNat 8 data.length).toNat = (data.map byteOfOperand).length := by
    simp
    omega
  have := splitBytes_append (data.map byteOfOperand) []
  rw [List.append_nil] at this
  simp only [decodeData, encodeData, hl, this, List.map_map, map_operandOfByte_byteOfOperand h.1]

/-- Payload operands that decode are the encoding of what they decode to. -/
theorem encodeData_of_decodeData {l rest : List Byte} {data : List Int} (h : decodeData l = some (data, rest)) :
    l = encodeData data ++ rest := by
  cases l with
  | nil => cases h
  | cons n l =>
    simp only [decodeData] at h
    split at h
    · next hs =>
      cases h
      obtain ⟨rfl, hl⟩ := splitBytes_eq_some hs
      have : byteOfOperand ∘ operandOfByte = id := funext fun b => byteOfOperand_operandOfByte b
      simp [encodeData, hl, this]
    · cases h

theorem valueOfBytes_bytesOfValue {v : Nat} (h : v < 2 ^ 32) :
    valueOfBytes (BitVec.ofNat 8 (v >>> 24)) (BitVec.ofNat 8 (v >>> 16)) (BitVec.ofNat 8 (v >>> 8))
      (BitVec.ofNat 8 v) = v := by
  simp only [valueOfBytes, BitVec.toNat_ofNat, Nat.shiftRight_eq_div_pow]
  omega

theorem bytesOfValue_valueOfBytes (a b c d : Byte) : bytesOfValue (valueOfBytes a b c d) = [a, b, c, d] := by
  have := a.isLt
  have := b.isLt
  have := c.isLt
  have := d.isLt
  simp only [bytesOfValue, valueOfBytes, Nat.shiftRight_eq_div_pow, List.cons.injEq, and_true]
  refine ⟨?_, ?_, ?_, ?_⟩ <;> apply BitVec.eq_of_toNat_eq <;> simp only [BitVec.toNat_ofNat] <;> omega

end Sys2Proof
end

