-- ==== Sys2Proof/Laws/Packet.lean ====
section
/-! SUPPORT. Lemmas about packet values: sums and checksums, construction, the packet registers, and `selPacket`. -/

namespace Sys2Proof

@[simp] theorem sumBytes_nil : sumBytes [] = 0 := rfl

@[simp] theorem sumBytes_cons (b : Byte) (l : List Byte) : sumBytes (b :: l) = b.toNat + sumBytes l := rfl

@[simp] theorem sumBytes_append (a b : List Byte) : sumBytes (a ++ b) = sumBytes a + sumBytes b := by simp [sumBytes]

namespace Machine

theorem chk_toNat (l : List Byte) : (chk l).toNat = (256 - sumBytes l % 256) % 256 := by simp [chk]

theorem sum_add_chk (l : List Byte) : (sumBytes l + (chk l).toNat) % 256 = 0 := by
  rw [chk_toNat]
  omega

/-- The checksum byte is the one that makes the sum 0 modulo 256. -/
theorem eq_chk_iff (c : Byte) (l : List Byte) : c = chk l ↔ (sumBytes l + c.toNat) % 256 = 0 := by
  rw [← BitVec.toNat_inj, chk_toNat]
  have := c.isLt
  omega

theorem encodePacket_getLast? (p : Packet) : (encodePacket p).getLast? = some (chk p.body) := by
  simp only [encodePacket]
  exact List.getLast?_concat

theorem len_toNat {p : Packet} (h : p.data.length ≤ 252) : p.len.toNat = 3 + p.data.length := by
  simp [Packet.len, Config.overhead]
  omega

/-- The frame that ends in the packet's own checksum is its encoding. -/
theorem wireFrame_chk (p : Packet) : wireFrame p (chk p.body) = encodePacket p := by
  simp [wireFrame, encodePacket, Packet.body]

theorem chkStatus_of_received {p : Packet} {c : Byte} (h : p.receivedChecksum = some c) :
    chkStatus p = if c = chk p.body then .ok else .failed := by
  cases hc : (c == chk p.body) with
  | true => rw [if_pos (beq_iff_eq.mp hc)]; simp [chkStatus, checksumValid, h, hc]
  | false => rw [if_neg (by simpa using hc)]; simp [chkStatus, checksumValid, h, hc]

theorem goodPacket_iff {src rcv cmd : Int} {data : List Int} :
    goodPacket [src, rcv, cmd] data ↔
      (data.all inByteRange = true ∧ inByteRange src = true ∧ inByteRange rcv = true ∧ inByteRange cmd = true) ∧
        data.length ≤ 252 := by
  simp only [goodPacket, List.mem_append, List.mem_cons, List.not_mem_nil, or_false, List.all_eq_true, inByteRange,
    Bool.and_eq_true, decide_eq_true_eq]
  constructor
  · rintro ⟨h, hl⟩
    exact ⟨⟨fun x hx => h x (.inr hx), h _ (by simp), h _ (by simp), h _ (by simp)⟩, hl⟩
  · rintro ⟨⟨h, a, b, c⟩, hl⟩
    refine ⟨?_, hl⟩
    rintro x ((rfl | rfl | rfl) | hx)
    exacts [a, b, c, h x hx]

/-- A packet sent from LOCAL_ADDR is good when its other operands are. -/
theorem goodPacket_local {dst cmd : Int} {data : List Int} (s : State) (h : goodPacket [dst, cmd] data) :
    goodPacket [(s.localAddr.toNat : Int), dst, cmd] data := by
  refine ⟨fun x hx => ?_, h.2⟩
  simp only [List.cons_append, List.mem_cons] at hx
  rcases hx with rfl | hx
  · have := s.localAddr.isLt
    omega
  · exact h.1 x (by simpa using hx)

/-- Construction accepts what is in range (R121). -/
theorem construct_some {src rcv cmd : Int} {data : List Int} (h : goodPacket [src, rcv, cmd] data) :
    ∃ p, construct src rcv cmd data = some p ∧ p.Carries src rcv cmd data := by
  obtain ⟨⟨h, a, b, c⟩, hl⟩ := goodPacket_iff.1 h
  have hl' : ¬ Config.maxPayload < data.length := by
    simp [Config.maxPayload]
    omega
  have key : ∀ x : Int, inByteRange x = true → ((BitVec.ofInt 8 x).toNat : Int) = x := by
    intro x hx
    simp only [inByteRange, Bool.and_eq_true, decide_eq_true_eq] at hx
    rw [BitVec.toNat_ofInt]
    omega
  refine ⟨_, by
    simp only [construct, h, a, b, c, hl', Bool.and_self, Bool.not_true, if_false, Bool.false_eq_true]
    rfl, key _ a, key _ b, key _ c, ?_, rfl⟩
  rw [List.map_map]
  conv => rhs; rw [← List.map_id data]
  apply List.map_congr_left
  intro x hx
  exact key x (List.all_eq_true.1 h x hx)

/-- Construction refuses what is not in range (R121). -/
theorem construct_none {src rcv cmd : Int} {data : List Int} (h : ¬ goodPacket [src, rcv, cmd] data) :
    construct src rcv cmd data = none := by
  rw [goodPacket_iff] at h
  unfold construct
  split
  · rfl
  · split
    · rfl
    · split
      · rfl
      · exfalso
        apply h
        simp_all [Config.maxPayload]

/-- A constructed packet fits the buffer (R121). -/
theorem construct_length {src rcv cmd : Int} {data : List Int} {p : Packet} (h : construct src rcv cmd data = some p) :
    p.data.length ≤ Config.maxPayload := by
  unfold construct at h
  split at h
  · cases h
  · split at h
    · cases h
    · split at h
      · cases h
      · next hl =>
        cases h
        simpa using hl

theorem carries_length {p : Packet} {src rcv cmd : Int} {data : List Int} (h : p.Carries src rcv cmd data) :
    p.data.length = data.length := by
  rw [← h.data]
  simp

/-- BUILD's write puts the packet into the TX packet register (R27). -/
theorem loadTx_holds (p : Packet) (s : State) (h : p.data.length ≤ 252) : (loadTx p s).tx.Holds p s.tx := by
  constructor
  · rfl
  · rfl
  · rfl
  · simp [loadTx]
    omega
  · intro i hi
    simp only [loadTx]
    rw [List.getElem?_append_left hi]
  · intro i hi
    simp only [loadTx]
    rw [List.getElem?_append_right hi, List.getElem?_drop]
    congr 1
    omega

theorem txPacket_congr {s t : State} (h : t.tx = s.tx) : t.txPacket = s.txPacket := by
  unfold State.txPacket
  rw [h]

/-- The TX packet register reads back the packet it was loaded with. -/
theorem txPacket_loadTx (p : Packet) (s : State) (ha : p.receivedChecksum = none) (hl : p.data.length ≤ 252) :
    (loadTx p s).txPacket = p := by
  cases p with | mk a b c d e =>
  have hl : d.length ≤ 252 := hl
  have : (BitVec.ofNat 8 d.length).toNat = d.length := by
    rw [BitVec.toNat_ofNat]
    omega
  cases ha
  simp [loadTx, State.txPacket, this]

/-- The packet that `sel` selects. -/
theorem selPacket_of_selected {s : State} {p : Packet} {sel : Byte}
    (h : (sel = 0 ∧ p = s.txPacket) ∨ (sel = 1 ∧ s.rx.chkPresent = true ∧ p = s.rxPacket)) :
    selPacket sel s = some p := by
  rcases h with ⟨rfl, rfl⟩ | ⟨rfl, h, rfl⟩
  · rfl
  · simp [selPacket, h]

theorem selPacket_of_none {s : State} {sel : Byte} (h : 2 ≤ sel.toNat ∨ (sel = 1 ∧ s.rx.chkPresent = false)) :
    selPacket sel s = none := by
  rcases h with h | ⟨rfl, h⟩
  · have h0 : sel ≠ 0 := by
      rintro rfl
      simp at h
    have h1 : sel ≠ 1 := by
      rintro rfl
      simp at h
    simp only [selPacket, h0, h1, if_false]
  · simp [selPacket, h]

/-- In DONE the packet's LEN is RX_LEN. -/
theorem rxPacket_len {s : State} (hi : s.Inv) (hp : s.rx.chkPresent = true) : s.rxPacket.len = s.rxLen := by
  have hd := hi.presence.1 hp
  have hr := hi.reader
  simp only [readerFits, hd] at hr
  apply BitVec.eq_of_toNat_eq
  have := hi.rxBuffer
  simp only [Packet.len, State.rxPacket, BitVec.toNat_ofNat, List.length_take, hi.rxBuffer, Config.overhead,
    Config.maxPayload] at *
  have := s.rxLen.isLt
  omega

end Machine

end Sys2Proof
end

