-- ==== Sys2Proof/Laws/Inv.lean ====
section
/-! SUPPORT. The shared operations keep the invariant: one lemma for each, and for the states between two interactions
of an operation. -/

namespace Sys2Proof.Machine

theorem resultFor_of_ne_ok {st : Status} {res : Result} (h : st ≠ .ok) : resultFor st res = .empty := by
  simp [resultFor, h]

/-- RTS can be asserted only in an arbitrated session. -/
theorem State.Inv.rts_of_not_arb {s : State} (hi : s.Inv) (ha : s.arb = false) : s.rts = false := by
  cases h : s.rts with
  | false => rfl
  | true =>
    have := (hi.rtsHeld h).2
    simp [ha] at this

/-- The fields the invariant does not mention. -/
theorem State.Inv.congr_outside {s : State} (hi : s.Inv) (addr timeout : Byte) (rxIn : List Arrival)
    (ctsIn : List Bool) (draws : Nat) (inputs : List Input) (history : List Event) :
    State.Inv
      { s with
        localAddr := addr, readTimeout := timeout, rxIn := rxIn, ctsIn := ctsIn, draws := draws, inputs := inputs,
        history := history } :=
  ⟨hi.1, hi.2, hi.3, hi.4, hi.5, hi.6, hi.7, hi.8, hi.9, hi.10, hi.11, hi.12, hi.13⟩

theorem inv_emit {s : State} (hi : s.Inv) (e : Event) : (emit e s).Inv :=
  hi.congr_outside s.localAddr s.readTimeout s.rxIn s.ctsIn s.draws s.inputs _

theorem inv_deliver {s : State} (hi : s.Inv) (a : List Arrival) : (deliver a s).Inv :=
  hi.congr_outside s.localAddr s.readTimeout _ s.ctsIn s.draws s.inputs s.history

theorem inv_fetch {s : State} (hi : s.Inv) : (fetch s).2.Inv := by
  rw [fetch_state]
  exact hi.congr_outside s.localAddr s.readTimeout s.rxIn s.ctsIn s.draws _ s.history

theorem inv_takeArrival {s : State} (hi : s.Inv) : (takeArrival s).2.Inv := by
  rw [takeArrival_state]
  exact hi.congr_outside s.localAddr s.readTimeout _ s.ctsIn _ s.inputs s.history

theorem inv_takeCts {s : State} (hi : s.Inv) : (takeCts s).2.Inv := by
  rw [takeCts_state]
  exact hi.congr_outside s.localAddr s.readTimeout s.rxIn _ _ s.inputs s.history

theorem inv_forgetRx {s : State} (hi : s.Inv) : (forgetRx s).Inv :=
  ⟨hi.1, hi.2, hi.3, by simp [forgetRx], hi.5, hi.6, hi.7, hi.8, hi.9, hi.10, hi.11, hi.12, hi.13⟩

theorem inv_loadTx {s : State} (hi : s.Inv) (p : Packet) (hp : p.data.length ≤ Config.maxPayload) :
    (loadTx p s).Inv := by
  refine ⟨hi.1, ?_, ?_, hi.4, hi.5, hi.6, hi.7, hi.8, hi.9, hi.10, hi.11, hi.12, hi.13⟩
  · have := hi.txBuffer
    simp [loadTx, this]
    omega
  · simp [loadTx]
    omega

theorem inv_finish {s : State} (hi : s.Inv) (op : OpName) (st : Status) (res : Result)
    (h : s.running = none ∨ resultFor st res = .empty) : (finish op st res s).Inv :=
  ⟨hi.1, hi.2, hi.3, hi.4, hi.5, hi.6, hi.7, hi.8, hi.9, hi.10, fun hr => h.elim (fun h => absurd h hr) id,
    resultFor_of_ne_ok, hi.13⟩

theorem inv_refuse {s : State} (hi : s.Inv) (op : OpName) : (refuse op s).Inv := inv_finish hi _ _ _ (.inr rfl)

/-- Stopping whatever runs keeps the invariant. -/
theorem inv_halted {s : State} (hi : s.Inv) : State.Inv { s with running := none, sstate := .idle } :=
  ⟨hi.1, hi.2, hi.3, hi.4, hi.5, hi.6, hi.7, fun h => absurd rfl h, hi.9, fun _ => rfl, fun h => absurd rfl h, hi.12,
    fun t h => by cases h⟩

theorem inv_complete {s : State} (hi : State.Inv { s with running := none, sstate := .idle }) (op : OpName)
    (st : Status) (res : Result) : (complete op st res s).Inv := inv_finish hi _ _ _ (.inl rfl)

theorem inv_setRts {s : State} (hi : s.Inv) (hn : s.running = none) (v : Bool)
    (h : v = true → s.sess = .opened ∧ s.arb = true) : (setRts v s).Inv :=
  ⟨hi.1, hi.2, hi.3, hi.4, hi.5, hi.6, h, hi.8, hi.9, hi.10, hi.11, hi.12, fun t ht => by
    rw [setRts_running, hn] at ht
    cases ht⟩

theorem inv_releaseBus {s : State} (hi : s.Inv) (hn : s.running = none) : (releaseBus s).Inv := by
  unfold releaseBus
  split
  · exact inv_setRts hi hn _ (by simp)
  · exact hi

theorem inv_closeBody {s : State} (hi : s.Inv) (hn : s.running = none) (hc : s.closing = 0) : (closeBody s).Inv := by
  refine inv_finish (s := { setRts false s with sstate := .idle, sess := .closed, rxIn := [] }) ?_ _ _ _ (.inl hn)
  exact ⟨hi.1, hi.2, hi.3, hi.4, hi.5, hi.6, by simp, fun h => absurd hn h, fun h => absurd hc h, fun _ => rfl,
    fun h => absurd hn h, hi.12, fun t ht => by simp [hn] at ht⟩

theorem inv_closeEach {n : Nat} {s : State} (hi : s.Inv) (hn : s.running = none) (hc : s.closing = 0) :
    (closeEach n s).Inv := by
  induction n generalizing s with
  | zero => exact hi
  | succ n ih => exact ih (inv_closeBody hi hn hc) hn hc

theorem inv_proceedClose {n : Nat} {s : State} (hi : s.Inv) (hn : s.running = none) : (proceedClose n s).Inv :=
  inv_closeEach (s := { s with closing := 0 })
    ⟨hi.1, hi.2, hi.3, hi.4, hi.5, hi.6, hi.7, hi.8, fun h => absurd rfl h, hi.10, hi.11, hi.12, hi.13⟩ hn rfl

theorem inv_accept {s : State} (hi : s.Inv) (ho : s.sess = .opened) (op : OpName) (p : Point)
    (h : taskFits ⟨op, p⟩ s) : (accept op p s).Inv :=
  ⟨hi.1, hi.2, hi.3, hi.4, hi.5, hi.6, hi.7, fun _ => ho, hi.9, fun h => (by cases h), fun _ => rfl, fun _ => rfl,
    fun t ht => by cases ht; exact h⟩

/-- An operation at a place that fits, in a state whose registers keep the invariant. -/
theorem inv_goto {s : State} (hi : State.Inv { s with running := none, sstate := .idle }) (ho : s.sess = .opened)
    (he : s.result = .empty) (op : OpName) (p : Point) (h : taskFits ⟨op, p⟩ s) : (goto op p s).Inv :=
  ⟨hi.1, hi.2, hi.3, hi.4, hi.5, hi.6, hi.7, fun _ => ho, hi.9, fun h => (by cases h), fun _ => he, hi.12,
    fun t ht => by cases ht; exact h⟩

/-- The start of a read keeps the invariant of the registers. -/
theorem inv_startRead {s : State} (hi : State.Inv { s with running := none, sstate := .idle }) :
    State.Inv { startRead s with running := none, sstate := .idle } :=
  ⟨hi.1, hi.2, hi.3, hi.4, ⟨rfl, rfl⟩, by simp, hi.7, hi.8, hi.9, hi.10, hi.11, hi.12, fun t ht => by cases ht⟩

/-- A byte keeps the Reader's part of the invariant (R163). -/
theorem readerByte_fits (b : Byte) {s : State} (hi : s.Inv) (hd : s.rstate ≠ .done) :
    (readerByte b s).rx.data.length = Config.maxPayload ∧ readerFits (readerByte b s) ∧
      ((readerByte b s).rx.chkPresent = true ↔ (readerByte b s).rstate = .done) := by
  have hr := hi.reader
  have hp := hi.presence
  have hb := hi.rxBuffer
  have hp' : s.rx.chkPresent = false := by simpa [hd] using hp
  unfold readerByte
  split
  · next hs =>
    simp only [readerFits, hs] at hr
    split
    · exact ⟨hb, ⟨hr.1, by simp⟩, by simp [hp']⟩
    · exact ⟨hb, by simp only [readerFits, hs]; exact hr, by simp [hp', hs]⟩
  · next hs =>
    simp only [readerFits, hs] at hr
    unfold headerByte
    split
    · next h0 =>
      have h0 : s.hidx = 0 := BitVec.eq_of_toNat_eq h0
      split
      · exact ⟨hb, ⟨hr.1, h0⟩, by simp [hp']⟩
      · next h3 =>
        exact ⟨hb, by simp only [readerFits, hs]; exact ⟨hr.1, fun _ => by omega⟩, by simp [hp', hs]⟩
    · next h0 =>
      have h0 : s.hidx ≠ 0 := by
        intro h
        simp [h] at h0
      exact ⟨hb, by simp only [readerFits, hs]; exact ⟨hr.1, fun _ => hr.2 h0⟩, by simp [hp', hs]⟩
    · next h0 =>
      have h0 : s.hidx ≠ 0 := by
        intro h
        simp [h] at h0
      exact ⟨hb, by simp only [readerFits, hs]; exact ⟨hr.1, fun _ => hr.2 h0⟩, by simp [hp', hs]⟩
    · next h0 h1 h2 =>
      have h0 : s.hidx ≠ 0 := by
        intro h
        simp [h] at h0
      have := hr.2 h0
      have hc : s.rx.cnt.toNat = 0 := by simp [hr.1]
      by_cases h3 : s.rxLen.toNat = Config.overhead
      · exact ⟨hb, by simp only [readerFits, h3, if_true]; exact ⟨trivial, by omega⟩, by simp [hp', h3]⟩
      · exact ⟨hb, by simp only [readerFits, h3, if_false]; exact ⟨trivial, by omega⟩, by simp [hp', h3]⟩
  · next hs =>
    simp only [readerFits, hs] at hr
    have hlt := s.rxLen.isLt
    have hc : (s.rx.cnt + 1).toNat = s.rx.cnt.toNat + 1 := by
      rw [BitVec.toNat_add]
      simp [Config.overhead] at hr ⊢
      omega
    unfold payloadByte
    by_cases h3 : (s.rx.cnt + 1).toNat + Config.overhead = s.rxLen.toNat
    · exact ⟨by simpa using hb, by simp only [readerFits, h3, if_true]; exact ⟨hr.1, trivial⟩,
        by simp only [h3, if_true, hp']; simp⟩
    · exact ⟨by simpa using hb, by simp only [readerFits, h3, if_false]; exact ⟨hr.1, by omega⟩,
        by simp only [h3, if_false, hp']; simp⟩
  · next hs =>
    simp only [readerFits, hs] at hr
    exact ⟨hb, hr, by simp⟩
  · next hs => exact absurd hs hd

/-- What follows a packet keeps the invariant (R158, R205, R207, R208). -/
theorem inv_packetRead {s : State} (hi : State.Inv { s with running := none, sstate := .idle })
    (ho : s.sess = .opened) (he : s.result = .empty) (op : OpName) (hf : readingFits op s) (hd : s.rstate = .done) :
    (packetRead op s).Inv := by
  unfold packetRead
  split
  · exact inv_complete hi _ _ _
  · next hop =>
    have hf' : (op = .receive ∨ op = .sendReceive) ∧
        ((s.sstate = .echo ∧ s.arb = true) ∨ (s.sstate = .resp ∧ s.rts = false)) := by
      rcases hf with ⟨h, _⟩ | h
      · exact absurd h hop
      · exact h
    split
    · next hec =>
      refine inv_goto hi ho he _ _ ⟨hf'.1, hec, ?_, hd⟩
      rcases hf'.2 with h | h
      · exact h.2
      · simp [hec] at h
    · next hec =>
      have hre : s.sstate = .resp ∧ s.rts = false := by
        rcases hf'.2 with h | h
        · exact absurd h.1 hec
        · exact h
      split
      · exact inv_complete hi _ _ _
      · split
        · next hdb => exact inv_goto hi ho he _ _ ⟨hdb, hf'.1, hre.1, hre.2, hd⟩
        · exact inv_goto (inv_startRead hi) ho he _ _ ⟨hf, by simp⟩

/-- The start of Send keeps the invariant (R201). -/
theorem inv_beginSend {s : State} (hi : s.Inv) (ho : s.sess = .opened) (op : OpName) (hs : sendLike op) :
    (beginSend op s).Inv := by
  unfold beginSend
  split
  · next ha =>
    exact ⟨hi.1, hi.2, hi.3, hi.4, hi.5, hi.6, hi.7, fun _ => ho, hi.9, fun h => (by cases h), fun _ => rfl,
      fun _ => rfl, fun t ht => by cases ht; exact ⟨ha, .inr ⟨hs, rfl⟩⟩⟩
  · unfold afterTakeBus
    have : op ≠ .takeBus := by rcases hs with rfl | rfl <;> simp
    simp only [this, if_false]
    refine ⟨hi.1, hi.2, hi.3, hi.4, hi.5, hi.6, hi.7, fun _ => ho, hi.9, fun h => (by cases h), fun _ => rfl,
      fun _ => rfl, ?_⟩
    intro t ht
    cases ht
    show taskFits ⟨op, if s.debug then _ else _⟩ _
    split
    · next hd => exact ⟨hd, hs, rfl⟩
    · exact ⟨hs, rfl⟩

/-- The payload buffers at reset have their size (R27, R28). -/
theorem zeroBuffer_length : zeroBuffer.length = Config.maxPayload := List.length_replicate

end Sys2Proof.Machine
end

