-- ==== Sys2Proof/Laws/PerInstr.lean ====
section
/-! SUPPORT. Per-instruction families: `FirstByte`, the byte every encoding begins with (R90, R103). -/

namespace Sys2Proof.Laws.FirstByte

/-- The operation code of a host command, and SOM for a frame (R90, R103). -/
def code : Instr → Byte
  | .openSession _ _ _ => 0x00
  | .closeSession => 0x01
  | .build _ _ _ _ => 0x02
  | .encode _ => 0x03
  | .checksumValid _ => 0x04
  | .describe _ => 0x05
  | .intTo3Bytes _ => 0x06
  | .readPacket => 0x07
  | .takeBus => 0x08
  | .releaseBus => 0x09
  | .send _ _ _ => 0x0A
  | .receive => 0x0B
  | .sendReceive _ _ _ => 0x0C
  | .reserved0D => 0x0D
  | .reserved0E => 0x0E
  | .reserved0F => 0x0F
  | .frame _ _ _ _ _ _ => 0x3B

/-- The encoding begins with the operation's own byte. -/
def Statement (i : Instr) : Prop := (Sys2Proof.encode i).head? = some (code i)

theorem openSession (addr ctrl timeout : Byte) : Statement (.openSession addr ctrl timeout) := rfl
theorem closeSession : Statement .closeSession := rfl
theorem build (src rcv cmd : Int) (data : List Int) : Statement (.build src rcv cmd data) := rfl
theorem encode (sel : Byte) : Statement (.encode sel) := rfl
theorem checksumValid (sel : Byte) : Statement (.checksumValid sel) := rfl
theorem describe (sel : Byte) : Statement (.describe sel) := rfl
theorem intTo3Bytes (value : Nat) : Statement (.intTo3Bytes value) := rfl
theorem readPacket : Statement .readPacket := rfl
theorem takeBus : Statement .takeBus := rfl
theorem releaseBus : Statement .releaseBus := rfl
theorem send (dst cmd : Int) (data : List Int) : Statement (.send dst cmd data) := rfl
theorem receive : Statement .receive := rfl
theorem sendReceive (dst cmd : Int) (data : List Int) : Statement (.sendReceive dst cmd data) := rfl
theorem reserved0D : Statement .reserved0D := rfl
theorem reserved0E : Statement .reserved0E := rfl
theorem reserved0F : Statement .reserved0F := rfl
theorem frame (len src rcv cmd : Byte) (payload : List Byte) (chk : Byte) :
    Statement (.frame len src rcv cmd payload chk) := rfl

end Sys2Proof.Laws.FirstByte
end

