-- ==== Sys2Proof/Laws/Runs.lean ====
section
/-! SUPPORT. Runs of several steps: how they compose, the steps of a running operation with nothing presented, the CTS
poll and the way from the start of Send to its write, and a whole frame read by the Reader. -/

namespace Sys2Proof.Machine

theorem run_succ_of_step (M : Host.Core) (k : Nat) (s m : M.State) (h : M.step s = .next m) :
    M.run (k + 1) s = M.run k m := by
  rw [Host.Core.run, h]

theorem step_of_run_succ (M : Host.Core) (k : Nat) (s t : M.State) (h : M.run (k + 1) s = .next t) :
    ∃ m, M.step s = .next m ∧ M.run k m = .next t := by
  rw [Host.Core.run] at h
  split at h
  · exact ⟨_, ‹_›, h⟩
  · cases h
  · cases h

theorem runs_zero (s : State) : Runs 0 s s := rfl

theorem runs_succ_iff {k : Nat} {s t : State} : Runs (k + 1) s t ↔ ∃ m, step s = .next m ∧ Runs k m t := by
  constructor
  · exact step_of_run_succ Sys2Proof.core k s t
  · rintro ⟨m, h, h'⟩
    exact (run_succ_of_step Sys2Proof.core k s m h).trans h'

theorem runs_succ {k : Nat} {s m t : State} (h : step s = .next m) (h' : Runs k m t) : Runs (k + 1) s t :=
  runs_succ_iff.mpr ⟨m, h, h'⟩

theorem runs_one {s t : State} (h : step s = .next t) : Runs 1 s t := runs_succ h (runs_zero t)

theorem runs_cast {k k' : Nat} {s u u' : State} (h : Runs k s u) (hk : k = k') (hu : u = u') : Runs k' s u' := by
  subst hk hu
  exact h

theorem runs_trans {j k : Nat} {s m t : State} (h : Runs j s m) (h' : Runs k m t) : Runs (j + k) s t := by
  induction j generalizing s with
  | zero =>
    have : s = m := by
      cases h
      rfl
    subst this
    simpa using h'
  | succ j ih =>
    obtain ⟨m', hm, h⟩ := runs_succ_iff.mp h
    exact runs_cast (runs_succ hm (ih h)) (by omega) rfl

/-- With nothing presented the step is the engine's. -/
theorem step_engine {s : State} (h : s.inputs = []) : step s = .next (engineStep s) := by
  unfold step fetch
  rw [h]

/-- With nothing presented a running operation makes its next interaction. -/
theorem step_task {s u : State} {t : Task} (h : s.inputs = []) (ht : s.running = some t) (e : taskStep t s = u) :
    step s = .next u := by
  rw [step_engine h]
  unfold engineStep
  rw [ht, ← e]

/-! ## The bus -/

theorem step_sample_busy {s : State} {op : OpName} {later : List Bool} (h : s.inputs = [])
    (hr : s.running = some ⟨op, .sample⟩) (hc : s.closing = 0) (hs : s.ctsIn = true :: later) :
    step s = .next (({ s with ctsIn := later } : State).withEvents [.cts (.level true)]) := by
  refine step_task h hr ?_
  simp [taskStep, sampleStep, hc, takeCts, hs, emit, State.withEvents]

theorem step_sample_free {s : State} {op : OpName} {later : List Bool} (h : s.inputs = [])
    (hr : s.running = some ⟨op, .sample⟩) (hc : s.closing = 0) (hs : s.ctsIn = false :: later) :
    step s = .next (({ s with ctsIn := later, running := some ⟨op, .assertRts⟩ } : State).withEvents
      [.cts (.level false)]) := by
  refine step_task h hr ?_
  simp [taskStep, sampleStep, hc, takeCts, hs, emit, State.withEvents, goto]

/-- From the end of TakeBus to the write, the DBG_TX record between them with DEBUG = 1 (R201). -/
theorem runs_afterTakeBus {s : State} {op : OpName} (h : s.inputs = []) (hop : op ≠ .takeBus) :
    Runs (if s.debug then 1 else 0) (afterTakeBus op s)
      (({ s with running := some ⟨op, .write⟩, sstate := .write } : State).withEvents
        (if s.debug then [.dbg (.tx (describePacket s.txPacket))] else [])) := by
  unfold afterTakeBus
  simp only [hop, if_false]
  split
  · exact runs_one (step_task (t := ⟨op, .debugTx⟩) h rfl rfl)
  · simp only [goto, State.withEvents, List.append_nil]
    exact runs_zero _

/-! ## The Reader -/

/-- A byte of noise (R152). -/
theorem step_noise {s : State} {op : OpName} {b : Byte} {more : List Arrival} (hr : s.running = some ⟨op, .read⟩)
    (hc : s.closing = 0) (h : s.inputs = []) (hs : s.rxIn = .byte b :: more) (hn : isNoise b s = true) :
    step s =
      .next
        (if s.debug then goto op (.debugNoise b) (({ s with rxIn := more } : State).withEvents [.rx (.byte b)])
        else ({ s with rxIn := more } : State).withEvents [.rx (.byte b)]) := by
  refine step_task h hr ?_
  simp only [taskStep]
  rw [readStep_byte hc hs]
  exact if_pos hn

/-- A byte that belongs to a frame and does not end it (R163). -/
theorem step_byte {s t : State} {op : OpName} {b : Byte} {more : List Arrival} (hr : s.running = some ⟨op, .read⟩)
    (hc : s.closing = 0) (h : s.inputs = []) (hs : s.rxIn = .byte b :: more) (hn : isNoise b s = false)
    (hd : (readerByte b s).rstate ≠ .done)
    (ht : ({ readerByte b s with rxIn := more } : State).withEvents [.rx (.byte b)] = t) : step s = .next t := by
  refine step_task h hr ?_
  simp only [taskStep]
  rw [readStep_byte hc hs, ← ht]
  simp only
  rw [if_neg (by simp [hn])]
  exact if_neg hd

/-- The state after a byte that ends a frame (R157). -/
def afterLastByte (b : Byte) (more : List Arrival) (s : State) : State :=
  ({ s with rx := { s.rx with chk := b, chkPresent := true }, rstate := .done, rxIn := more } : State).withEvents
    [.rx (.byte b)]

/-- The byte that ends a frame, and what follows it (R157, R158). -/
theorem step_last_byte {s : State} {op : OpName} {b : Byte} {more : List Arrival} (hr : s.running = some ⟨op, .read⟩)
    (hc : s.closing = 0) (h : s.inputs = []) (hs : s.rxIn = .byte b :: more) (hck : s.rstate = .checksum) :
    step s =
      .next
        (if s.debug then goto op .debugRx (afterLastByte b more s) else packetRead op (afterLastByte b more s)) := by
  refine step_task h hr ?_
  have hn : ¬ isNoise b s = true := by simp [isNoise, hck]
  have hrb : readerByte b s = { s with rx := { s.rx with chk := b, chkPresent := true }, rstate := .done } := by
    simp only [readerByte, hck]
  simp only [taskStep]
  rw [readStep_byte hc hs]
  simp only [hrb]
  rw [if_neg hn]
  exact if_pos rfl

/-- A timeout that ends the read (R153, R160). -/
theorem step_no_packet {s : State} {op : OpName} {more : List Arrival} (hr : s.running = some ⟨op, .read⟩)
    (hc : s.closing = 0) (h : s.inputs = []) (hs : s.rxIn = .silence :: more) (he : silenceEndsRead s = true) :
    step s = .next (noPacketRead op (({ s with rxIn := more } : State).withEvents [.rx .noByte])) := by
  refine step_task h hr ?_
  simp only [taskStep]
  rw [readStep_silence hc hs]
  exact if_pos he

/-- The state after the header and the first `k` payload bytes of a frame, `queue` still to be read. -/
def midFrame (p : Packet) (k : Nat) (queue : List Arrival) (events : List Event) (s : State) : State :=
  { s with
    rx :=
      { src := p.src, rcv := p.rcv, cmd := p.cmd, cnt := BitVec.ofNat 8 k, data := p.data.take k ++ s.rx.data.drop k,
        chk := s.rx.chk, chkPresent := s.rx.chkPresent }
    rxLen := p.len
    hidx := 0
    rstate := if k = p.data.length then .checksum else .payload
    rxIn := queue
    history := s.history ++ events }

/-- SOM and the four header bytes (R152, R154). -/
theorem runs_header {s : State} {op : OpName} {p : Packet} {more : List Arrival}
    (hr : s.running = some ⟨op, .read⟩) (hc : s.closing = 0) (h : s.inputs = []) (hsc : s.rstate = .scanning)
    (hcnt : s.rx.cnt = 0) (hl : p.data.length ≤ 252)
    (hs : s.rxIn = arriving [Config.som, p.len, p.src, p.rcv, p.cmd] ++ more) :
    Runs 5 s (midFrame p 0 more (reads [Config.som, p.len, p.src, p.rcv, p.cmd]) s) := by
  have hlen := len_toNat hl
  refine runs_succ (step_byte
    (t := { s with
            rstate := .header, hidx := 0, rxIn := arriving [p.len, p.src, p.rcv, p.cmd] ++ more,
            history := s.history ++ reads [Config.som] }) hr hc h hs ?_ ?_ ?_) ?_
  · simp [isNoise]
  · simp [readerByte, hsc]
  · simp [readerByte, hsc]
    rfl
  refine runs_succ (step_byte
    (t := { s with
            rstate := .header, hidx := 1, rxLen := p.len, rxIn := arriving [p.src, p.rcv, p.cmd] ++ more,
            history := s.history ++ reads [Config.som, p.len] }) hr hc h rfl ?_ ?_ ?_) ?_
  · simp [isNoise]
  · simp [readerByte, headerByte, hlen, Config.overhead]
  · simp [readerByte, headerByte, hlen, Config.overhead, State.withEvents, reads]
    rfl
  refine runs_succ (step_byte
    (t := { s with
            rstate := .header, hidx := 2, rxLen := p.len, rx := { s.rx with src := p.src },
            rxIn := arriving [p.rcv, p.cmd] ++ more, history := s.history ++ reads [Config.som, p.len, p.src] })
    hr hc h rfl ?_ ?_ ?_) ?_
  · simp [isNoise]
  · simp [readerByte, headerByte]
  · simp [readerByte, headerByte, State.withEvents, reads]
    rfl
  refine runs_succ (step_byte
    (t := { s with
            rstate := .header, hidx := 3, rxLen := p.len, rx := { s.rx with src := p.src, rcv := p.rcv },
            rxIn := arriving [p.cmd] ++ more, history := s.history ++ reads [Config.som, p.len, p.src, p.rcv] })
    hr hc h rfl ?_ ?_ ?_) ?_
  · simp [isNoise]
  · simp [readerByte, headerByte]
  · simp [readerByte, headerByte, State.withEvents, reads]
    rfl
  refine runs_one (step_byte hr hc h rfl ?_ ?_ ?_)
  · simp [isNoise]
  · simp [readerByte, headerByte]
    split <;> simp
  · have : (p.len.toNat = 3) ↔ (0 = p.data.length) := by omega
    simp [readerByte, headerByte, State.withEvents, reads, midFrame, Config.overhead, hcnt, this]

/-- The payload bytes (R155). -/
theorem runs_payload {s : State} {op : OpName} {p : Packet} (hr : s.running = some ⟨op, .read⟩)
    (hc : s.closing = 0) (h : s.inputs = []) (hbuf : s.rx.data.length = 252) (hl : p.data.length ≤ 252)
    (events : List Event) (more : List Arrival) (k : Nat) (hk : k ≤ p.data.length) :
    Runs k (midFrame p 0 (arriving (p.data.take k) ++ more) events s)
      (midFrame p k more (events ++ reads (p.data.take k)) s) := by
  have hlen := len_toNat hl
  induction k generalizing more with
  | zero =>
    simp only [List.take_zero, arriving, reads, List.map_nil, List.nil_append, List.append_nil]
    exact runs_zero _
  | succ k ih =>
    have hk' : k < p.data.length := hk
    have h1 := ih (.byte p.data[k] :: more) (by omega)
    have htake : p.data.take (k + 1) = p.data.take k ++ [p.data[k]] := List.take_succ_eq_append_getElem hk'
    have e1 : arriving (p.data.take (k + 1)) ++ more = arriving (p.data.take k) ++ .byte p.data[k] :: more := by
      rw [htake]
      simp only [arriving, List.map_append, List.map_cons, List.map_nil, List.append_assoc, List.cons_append,
        List.nil_append]
    rw [e1]
    have hst : (midFrame p k (.byte p.data[k] :: more) (events ++ reads (p.data.take k)) s).rstate = .payload :=
      if_neg (by omega)
    refine runs_trans h1 (runs_one (step_byte hr hc h rfl ?_ ?_ ?_))
    · exact isNoise_of_not_scanning (by rw [hst]; simp)
    · simp only [readerByte, hst, payloadByte]
      split <;> simp
    · have h3 : ((BitVec.ofNat 8 k) + 1).toNat = k + 1 := by
        simp
        omega
      have h4 : (k + 1 + 3 = p.len.toNat) ↔ (k + 1 = p.data.length) := by omega
      have h5 : (BitVec.ofNat 8 k).toNat = k := by
        rw [BitVec.toNat_ofNat]
        omega
      have h6 : (p.data.take k ++ s.rx.data.drop k).set k p.data[k] =
          p.data.take (k + 1) ++ s.rx.data.drop (k + 1) := by
        rw [List.set_append_right _ _ (by rw [List.length_take]; omega),
          show k - (List.take k p.data).length = 0 by rw [List.length_take]; omega,
          List.drop_eq_getElem_cons (by omega), List.set_cons_zero, htake, List.append_assoc]
        rfl
      have h7 : (BitVec.ofNat 8 k) + 1 = BitVec.ofNat 8 (k + 1) := by
        apply BitVec.eq_of_toNat_eq
        rw [h3, BitVec.toNat_ofNat]
        omega
      have h8 : reads (p.data.take (k + 1)) = reads (p.data.take k) ++ [.rx (.byte p.data[k])] := by
        rw [htake]
        simp only [reads, List.map_append, List.map_cons, List.map_nil]
      have h9 : (BitVec.ofNat 8 (k + 1)).toNat = k + 1 := by rw [← h7, h3]
      simp only [readerByte, hst, payloadByte]
      simp only [midFrame, h9, Config.overhead, h4, h5, h6, h7, State.withEvents, h8, List.append_assoc]

/-- The state after a whole frame: the Reader in DONE with the frame's packet, `queue` unread. -/
def afterFrame (p : Packet) (last : Byte) (queue : List Arrival) (s : State) : State :=
  { s with
    rx :=
      { src := p.src, rcv := p.rcv, cmd := p.cmd, cnt := BitVec.ofNat 8 p.data.length,
        data := p.data ++ s.rx.data.drop p.data.length, chk := last, chkPresent := true }
    rxLen := p.len
    hidx := 0
    rstate := .done
    rxIn := queue
    history := s.history ++ reads (wireFrame p last) }

theorem rxPacket_afterFrame {p : Packet} {last : Byte} {queue : List Arrival} {s : State}
    (hl : p.data.length ≤ 252) : (afterFrame p last queue s).rxPacket = p.received last := by
  have : (BitVec.ofNat 8 p.data.length).toNat = p.data.length := by
    simp
    omega
  simp only [State.rxPacket, afterFrame, this, List.take_left', Packet.received]

/-- A whole frame, read from SCANNING: its payload length and six more steps, up to what follows its last byte. -/
theorem runs_frame {s : State} {op : OpName} {p : Packet} {last : Byte} {more : List Arrival}
    (hr : s.running = some ⟨op, .read⟩) (hc : s.closing = 0) (h : s.inputs = []) (hsc : s.rstate = .scanning)
    (hcnt : s.rx.cnt = 0) (hbuf : s.rx.data.length = 252) (hl : p.data.length ≤ 252)
    (hs : s.rxIn = arriving (wireFrame p last) ++ more) :
    Runs (p.data.length + 6) s
      (if s.debug then goto op .debugRx (afterFrame p last more s) else packetRead op (afterFrame p last more s)) := by
  have e : wireFrame p last = [Config.som, p.len, p.src, p.rcv, p.cmd] ++ (p.data ++ [last]) := by simp [wireFrame]
  have h1 := runs_header (p := p) (more := arriving p.data ++ .byte last :: more) hr hc h hsc hcnt hl
    (by rw [hs, e]; simp [arriving])
  have h2 := runs_payload (p := p) hr hc h hbuf hl (reads [Config.som, p.len, p.src, p.rcv, p.cmd])
    (.byte last :: more) p.data.length (le_refl _)
  rw [List.take_length] at h2
  have h3 := step_last_byte
    (s := midFrame p p.data.length (.byte last :: more)
      (reads [Config.som, p.len, p.src, p.rcv, p.cmd] ++ reads p.data) s)
    (op := op) (b := last) (more := more) hr hc h rfl (by simp [midFrame])
  refine runs_cast (runs_trans (runs_trans h1 h2) (runs_one h3)) (by omega) ?_
  have h4 : afterLastByte last more
      (midFrame p p.data.length (.byte last :: more)
        (reads [Config.som, p.len, p.src, p.rcv, p.cmd] ++ reads p.data) s) = afterFrame p last more s := by
    have : reads (wireFrame p last) =
        reads [Config.som, p.len, p.src, p.rcv, p.cmd] ++ reads p.data ++ [.rx (.byte last)] := by
      rw [e]
      simp [reads]
    simp only [afterLastByte, midFrame, afterFrame, State.withEvents, this, List.take_length, List.append_assoc]
  rw [h4]
  rfl

end Sys2Proof.Machine
end

