-- ==== Sys2Proof/Tests/Slice0.lean ====
section
/-! SUPPORT. Tests: the well-formedness checks refuse ill-formed operations; words of spec/30_encoding.md decode to the
operations they stand for; single steps, with the expected values of spec/95_test_vectors.md; and, for each statement
that has hypotheses, a witness that meets them (`witness_<statement>`, a clause each, at boundary values). -/

namespace Sys2Proof.Tests

open Sys2Proof.Machine

/-! ## WellFormed refuses (R92, R97, R103, R105, R121, R128) -/

theorem test_wf_src_256 : (Instr.build 256 0x12 1 []).wellFormed = false := by decide
theorem test_wf_rcv_negative : (Instr.build 0x20 (-1) 1 []).wellFormed = false := by decide
theorem test_wf_cmd_256 : (Instr.send 0x12 256 []).wellFormed = false := by decide
theorem test_wf_data_256 : (Instr.sendReceive 0x12 1 [0, 256]).wellFormed = false := by decide
theorem test_wf_data_count : isData (List.replicate 256 0) = false := by
  simp only [isData, List.length_replicate, Bool.and_eq_false_iff]
  exact .inr (by decide)
theorem test_wf_sel_2 : (Instr.encode 2).wellFormed = false ∧ (Instr.checksumValid 2).wellFormed = false ∧
    (Instr.describe 0xFF).wellFormed = false := by decide
theorem test_wf_value : (Instr.intTo3Bytes (2 ^ 32)).wellFormed = false := by decide
theorem test_wf_len_2 : (Instr.frame 2 0x12 0x20 1 [] 0).wellFormed = false := by decide
theorem test_wf_len_4 : (Instr.frame 4 0x12 0x20 1 [] 0).wellFormed = false := by decide
theorem test_wf_ok : (Instr.build 0x20 0xFF 0 [0, 255]).wellFormed = true ∧
    (Instr.intTo3Bytes 0xFFFFFFFF).wellFormed = true ∧ (Instr.frame 4 0xFF 0xFF 0xFF [0xFF] 0).wellFormed = true := by
  decide

/-! ## Decoding, a word for every constructor (the bytes are those of the encoding column of the opcode table) -/

theorem test_decode_open : decode [0x00, 0x20, 0x03, 0x01] = .ok (.openSession 0x20 0x03 0x01, []) := by decide
theorem test_decode_close : decode [0x01] = .ok (.closeSession, []) := by decide
theorem test_decode_build :
    decode [0x02, 0x12, 0x20, 0xFE, 0x02, 0x07, 0x0B] = .ok (.build 0x12 0x20 0xFE [0x07, 0x0B], []) := by decide
theorem test_decode_encode : decode [0x03, 0x01] = .ok (.encode 1, []) := by decide
theorem test_decode_checksumValid : decode [0x04, 0x00] = .ok (.checksumValid 0, []) := by decide
theorem test_decode_describe : decode [0x05, 0x02] = .ok (.describe 2, []) := by decide
theorem test_decode_intTo3Bytes : decode [0x06, 0x01, 0x02, 0x03, 0x04] = .ok (.intTo3Bytes 0x01020304, []) := by
  decide
theorem test_decode_readPacket : decode [0x07] = .ok (.readPacket, []) := by decide
theorem test_decode_takeBus : decode [0x08] = .ok (.takeBus, []) := by decide
theorem test_decode_releaseBus : decode [0x09] = .ok (.releaseBus, []) := by decide
theorem test_decode_send : decode [0x0A, 0x12, 0x13, 0x00] = .ok (.send 0x12 0x13 [], []) := by decide
theorem test_decode_receive : decode [0x0B] = .ok (.receive, []) := by decide
theorem test_decode_sendReceive :
    decode [0x0C, 0x12, 0x02, 0x03, 0x0A, 0x0B, 0x0C] = .ok (.sendReceive 0x12 0x02 [0x0A, 0x0B, 0x0C], []) := by
  decide
theorem test_decode_reserved : decode [0x0D] = .ok (.reserved0D, []) ∧ decode [0x0E] = .ok (.reserved0E, []) ∧
    decode [0x0F] = .ok (.reserved0F, []) := by decide
theorem test_decode_frame :
    decode [0x3B, 0x05, 0x12, 0x20, 0xFE, 0x07, 0x0B, 0xB9] = .ok (.frame 5 0x12 0x20 0xFE [0x07, 0x0B] 0xB9, []) := by
  decide
/-- Bits 7:4 of OPC (R102, P5 step 10), a short command (P5 step 12), and no byte at all. -/
theorem test_decode_refused : decode [0x17] = .error .reservedHighBits ∧
    decode [0x0C, 0x12, 0x01, 0x03, 0x0A, 0x0B] = .error .short ∧ decode [0x3B, 0x03, 0x12] = .error .short ∧
    decode [] = .error .empty := by decide
/-- The numbering of the opcode table: the first byte is bits 7:0. -/
theorem test_table_word : decodeTableWord 32 0x01032000 = some (.openSession 0x20 0x03 0x01) ∧
    decodeTableWord 16 0x0103 = some (.encode 1) := by decide

/-! ## Helpers -/

/-- An idle block with an open session. -/
def idle (ctrl : Byte) : State := { State.reset with sess := .opened, ctrl := ctrl }

/-- A block at work: an operation at a place, with the registers that place depends on. -/
def working (ctrl : Byte) (rts : Bool) (op : OpName) (p : Point) (q : SeqState) (r : ReaderState) (hidx : BitVec 2)
    (len cnt : Byte) (rxIn : List Arrival) : State :=
  { State.reset with
    sess := .opened, ctrl := ctrl, rts := rts, running := some ⟨op, p⟩, sstate := q, rstate := r, hidx := hidx,
    rxLen := len, rx := { State.reset.rx with cnt := cnt, chkPresent := decide (r = .done) }, rxIn := rxIn }

/-- READ_PACKET at work in a state of the Reader. -/
def reading (ctrl : Byte) (r : ReaderState) (hidx : BitVec 2) (len cnt : Byte) (rxIn : List Arrival) : State :=
  working ctrl false .readPacket .read .idle r hidx len cnt rxIn

/-- The state the outcome is, if it is one. -/
def nextOf : Host.Outcome State Fault Refusal → Option State
  | .next t => some t
  | _ => none

/-- The block after one operation, if it has a next state. -/
def after (i : Instr) (s : State) : Option State := nextOf (exec i s)

/-- An RX packet register that holds a packet. -/
def withRx (src rcv cmd : Byte) (data : List Byte) (check : Byte) (s : State) : State :=
  { s with
    rx :=
      { src := src, rcv := rcv, cmd := cmd, cnt := BitVec.ofNat 8 data.length, chk := check, chkPresent := true,
        data := data ++ zeroBuffer.drop data.length }
    rxLen := BitVec.ofNat 8 (3 + data.length), rstate := .done }

/-- A packet with an empty payload. -/
def emptyPacket (src rcv cmd : Byte) : Packet :=
  { src := src, rcv := rcv, cmd := cmd, data := [], receivedChecksum := none }

theorem idle_inv (ctrl : Byte) (h : ctrl &&& 0xF8 = 0) : (idle ctrl).Inv :=
  ⟨h, zeroBuffer_length, Nat.zero_le _, zeroBuffer_length, ⟨rfl, rfl⟩, ⟨(fun h => by cases h), (fun h => by cases h)⟩,
    (fun h => by cases h), fun h => absurd rfl h, fun h => absurd rfl h, fun _ => rfl, fun _ => rfl, fun _ => rfl,
    fun t h => by cases h⟩

theorem idle_ready (ctrl : Byte) : (idle ctrl).ready := ⟨rfl, rfl, rfl, rfl⟩

theorem idle_quiet (ctrl : Byte) : (idle ctrl).quiet := ⟨rfl, rfl⟩

theorem withRx_inv (ctrl src rcv cmd check : Byte) (h : ctrl &&& 0xF8 = 0) :
    (withRx src rcv cmd [] check (idle ctrl)).Inv :=
  ⟨h, zeroBuffer_length, Nat.zero_le _, zeroBuffer_length, ⟨rfl, rfl⟩, ⟨fun _ => rfl, fun _ => rfl⟩,
    (fun h => by cases h), fun h => absurd rfl h, fun h => absurd rfl h, fun _ => rfl, fun _ => rfl, fun _ => rfl,
    fun t h => by cases h⟩

theorem working_inv {ctrl : Byte} {rts : Bool} {op : OpName} {p : Point} {q : SeqState} {r : ReaderState}
    {hidx : BitVec 2} {len cnt : Byte} {rxIn : List Arrival} (h : ctrl &&& 0xF8 = 0)
    (hr : readerFits (working ctrl rts op p q r hidx len cnt rxIn))
    (hl : rts = true → ctrl.getLsbD 0 = true)
    (ht : taskFits ⟨op, p⟩ (working ctrl rts op p q r hidx len cnt rxIn)) :
    (working ctrl rts op p q r hidx len cnt rxIn).Inv :=
  ⟨h, zeroBuffer_length, Nat.zero_le _, zeroBuffer_length, hr, decide_eq_true_iff, fun h => ⟨rfl, hl h⟩, fun _ => rfl,
    fun h => absurd rfl h, (fun h => by cases h), fun _ => rfl, fun _ => rfl, fun t ht' => by cases ht'; exact ht⟩

/-- The Reader of READ_PACKET fits. -/
theorem reading_inv {ctrl : Byte} {r : ReaderState} {hidx : BitVec 2} {len cnt : Byte} {rxIn : List Arrival}
    (h : ctrl &&& 0xF8 = 0) (hd : r ≠ .done) (hr : readerFits (reading ctrl r hidx len cnt rxIn)) :
    (reading ctrl r hidx len cnt rxIn).Inv :=
  working_inv h hr (by simp) ⟨.inl ⟨rfl, rfl⟩, hd⟩

/-! ## Single steps (expected values: 95_test_vectors.md) -/

/-- P1 step 1: CTRL = 0x02, READ_TIMEOUT = 5, event Rts(0); and CTRL bits 7:3 are not written (R22). -/
theorem test_open :
    (after (.openSession 0x21 0xFA 5) State.reset).map
      (fun t => (t.localAddr, t.ctrl, t.readTimeout, t.statusByte, t.history)) =
    some (0x21, 0x02, 5, 0x01, [.rts false, .done .openSession .ok .empty]) := by decide
/-- P5 step 8: OPEN in an open session, STATUS 0x0D, LOCAL_ADDR stays. -/
theorem test_open_twice :
    (after (.openSession 0x21 0 1) (idle 3)).map (fun t => (t.localAddr, t.ctrl, t.statusByte)) =
      some (0x20, 3, 0x0D) := by decide
/-- P1 step 5 and P5 step 14. -/
theorem test_close :
    (after .closeSession { idle 3 with rts := true, rxIn := [.byte 1] }).map
      (fun t => (t.statusByte, t.rts, t.rxIn, t.history)) =
    some (0x00, false, [], [.rts false, .done .closeSession .ok .empty]) := by decide
/-- P5 step 2: CLOSE in a closed session, STATUS 0x0C. -/
theorem test_close_closed : (after .closeSession State.reset).map (·.statusByte) = some 0x0C := by decide
/-- B6. -/
theorem test_build :
    (after (.build 0x20 0x12 1 [0x0A, 0x0B]) State.reset).map
      (fun t => (t.tx.src, t.tx.rcv, t.tx.cmd, t.tx.cnt, t.tx.data.take 3)) =
    some (0x20, 0x12, 1, 2, [0x0A, 0x0B, 0]) := by decide
/-- B2 and B5. -/
theorem test_build_malformed :
    (after (.build 0x20 0x12 1 [0, -1]) (idle 0)).map (fun t => (t.lastSt, t.tx.cnt)) = some (.malformed, 0) ∧
    (after (.build 256 0x12 1 []) (idle 0)).map (fun t => (t.lastSt, t.tx.rcv)) = some (.malformed, 0) := by decide
/-- E3: a sum above 255. -/
theorem test_encode :
    (after (.encode 1) (withRx 0x12 0x20 0xFE [0x07, 0x0B] 0 (idle 0))).map (·.result) =
      some (.bytes [0x3B, 0x05, 0x12, 0x20, 0xFE, 0x07, 0x0B, 0xB9]) := by decide
/-- E9: CHK = 00; and P5 step 5, ENCODE(1) with no packet. -/
theorem test_encode_corner :
    encodePacket { src := 0xFF, rcv := 0xFF, cmd := 0xFF, data := [0xFF], receivedChecksum := none } =
      [0x3B, 0x04, 0xFF, 0xFF, 0xFF, 0xFF, 0x00] ∧
    (after (.encode 1) State.reset).map (·.statusByte) = some 0x0C := by decide
/-- K1 and K2. -/
theorem test_checksumValid :
    (after (.checksumValid 1) (withRx 0x12 0x20 2 [] 0xC9 (idle 0))).map (·.result) = some (.bit true) ∧
    (after (.checksumValid 1) (withRx 0x12 0x20 2 [] 0xC8 (idle 0))).map (·.result) = some (.bit false) := by decide
/-- K8, K9: P5 step 6. -/
theorem test_checksumValid_refused :
    (after (.checksumValid 0) (idle 0)).map (·.statusByte) = some 0x0D ∧
    (after (.checksumValid 2) (withRx 0x12 0x20 2 [] 0xC9 (idle 0))).map (·.lastSt) = some .refused := by decide
/-- DS3, DS6. -/
theorem test_describe :
    (describePacket { src := 0x12, rcv := 0x20, cmd := 1, data := [0x12, 0x34, 0x56], receivedChecksum := some 0x2B }
      |>.chkStatus) = .ok ∧
    parsedValue [0x12, 0x34, 0x56] = some 1193046 ∧ parsedValue [1, 2, 3, 4] = none ∧ parsedValue [] = some 0 := by
  decide
/-- DS5 and DS9. -/
theorem test_describe_corner :
    chkStatus { src := 0x12, rcv := 0x20, cmd := 2, data := [], receivedChecksum := some 0xC8 } = .failed ∧
    (after (.describe 2) (idle 0)).map (·.lastSt) = some .refused := by decide
/-- T12 and T14. -/
theorem test_intTo3Bytes :
    (after (.intTo3Bytes 0x01020304) State.reset).map (·.result) = some (.threeBytes 2 3 4) ∧
    (after (.intTo3Bytes 0x123456789) State.reset).map (·.result) = some (.threeBytes 0x45 0x67 0x89) := by decide
/-- R151: a read starts in SCANNING with nothing collected; P5 step 1: refused while CLOSED. -/
theorem test_readPacket :
    (after .readPacket (withRx 0x12 0x20 2 [] 0xC9 (idle 0))).map
      (fun t => (t.statusByte, t.rstate, t.rx.chkPresent, t.sstate)) = some (0x03, .scanning, false, .idle) ∧
    (after .readPacket State.reset).map (·.statusByte) = some 0x0C := by decide
/-- R181, R184. -/
theorem test_takeBus :
    (after .takeBus (idle 1)).map (fun t => (t.busy, t.rts, t.history)) = some (true, false, []) ∧
    (after .takeBus (idle 2)).map (fun t => (t.busy, t.rts, t.history)) =
      some (false, false, [.done .takeBus .ok .empty]) := by decide
/-- P3 step 3; R184. -/
theorem test_releaseBus :
    (after .releaseBus { idle 3 with rts := true }).map (fun t => (t.statusByte, t.rts, t.history)) =
      some (0x01, false, [.rts false, .done .releaseBus .ok .empty]) ∧
    (after .releaseBus (idle 2)).map (·.history) = some [.done .releaseBus .ok .empty] := by decide
/-- S10: no arbitration, no CTS sample, the frame is next; and an arbitrated SEND samples first. -/
theorem test_send :
    (after (.send 0x12 0x13 []) (idle 2)).map (fun t => (t.running, t.sstate, t.tx.src, t.tx.rcv, t.tx.cmd)) =
      some (some ⟨.send, .write⟩, .write, 0x20, 0x12, 0x13) ∧
    (after (.send 0x12 0x13 []) (idle 3)).map (fun t => (t.running, t.sstate)) =
      some (some ⟨.send, .sample⟩, .take) := by decide
/-- S10: the frame itself, and the completion. -/
theorem test_send_write :
    (nextOf (step { idle 2 with
                    running := some ⟨.send, .write⟩, sstate := .write,
                    tx := { State.reset.tx with src := 0x20, rcv := 0x12, cmd := 0x13 } })).map
      (fun t => (t.history, t.sstate, t.busy)) =
    some ([.tx [0x3B, 0x03, 0x20, 0x12, 0x13, 0xB8], .done .send .ok .empty], .idle, false) := by decide
/-- R204: the echo step with ARB = 1, the response loop with ARB = 0. -/
theorem test_receive :
    (after .receive (idle 3)).map (·.sstate) = some .echo ∧ (after .receive (idle 2)).map (·.sstate) = some .resp := by
  decide
/-- S11: an echo timeout leaves RTS asserted. -/
theorem test_receive_echo_timeout :
    (nextOf (step (working 3 true .receive .read .echo .scanning 0 0 0 [.silence]))).map
      (fun t => (t.statusByte, t.rts, t.history)) =
    some (0x05, true, [.rx .noByte, .done .receive .noPacket .empty]) := by decide
/-- S8: construction fails before any line activity. -/
theorem test_sendReceive :
    (after (.sendReceive 0x12 1 [256]) (idle 3)).map (fun t => (t.statusByte, t.history)) =
      some (0x09, [.done .sendReceive .malformed .empty]) := by decide
/-- R210: after the write SEND_RECEIVE receives. -/
theorem test_sendReceive_write :
    (nextOf (step { idle 2 with running := some ⟨.sendReceive, .write⟩, sstate := .write })).map
      (fun t => (t.running, t.sstate, t.rstate)) = some (some ⟨.sendReceive, .read⟩, .resp, .scanning) := by decide
/-- P5 step 9. -/
theorem test_reserved :
    (after .reserved0D (idle 3)).map (·.statusByte) = some 0x0D ∧
    (after .reserved0E (idle 3)).map (·.lastSt) = some .refused ∧
    (after .reserved0F (working 3 false .takeBus .sample .idle .scanning 0 0 0 [])).map (·.busy) = some true := by
  decide
/-- A frame on the line waits behind what is there. -/
theorem test_frame :
    (after (.frame 3 0x12 0x20 2 [] 0xC9) { idle 0 with rxIn := [.byte 0] }).map (·.rxIn) =
      some [.byte 0, .byte 0x3B, .byte 3, .byte 0x12, .byte 0x20, .byte 2, .byte 0xC9] := by decide
/-- RD: LEN below 3 is rejected, and the Reader scans on (R159). -/
theorem test_len_2 :
    (nextOf (step (reading 2 .header 0 0 0 [.byte 2]))).map (fun t => (t.rstate, t.rxLen, t.busy)) =
      some (.scanning, 2, true) := by decide
/-- P6 step 3: while TakeBus polls, a pending CLOSE makes the sample answer Closed; STATUS 0x11. -/
theorem test_close_busy :
    (nextOf (step { working 3 false .sendReceive .sample .take .scanning 0 0 0 [] with closing := 1 })).map
      (fun t => (t.statusByte, t.history)) =
    some (0x11, [.cts .closed, .done .sendReceive .aborted .empty]) := by decide
/-- A second CLOSE while the first waits is accepted (R200), and both complete ST_OK when the operation has ended. -/
theorem test_second_close :
    (after .closeSession { working 3 false .takeBus .sample .idle .scanning 0 0 0 [] with closing := 1 }).map
      (fun t => (t.closing, t.lastSt, t.history)) = some (2, .ok, []) ∧
    (nextOf (step { idle 3 with closing := 2 })).map (fun t => (t.statusByte, t.closing, t.history)) =
      some (0, 0, [.rts false, .done .closeSession .ok .empty, .rts false, .done .closeSession .ok .empty]) := by
  decide
/-- RELEASE_BUS issued after a CLOSE, right after the abort: the CLOSE's line event comes first (R73), and RELEASE_BUS then
finds the session closed (R200). -/
theorem test_close_before_later_operation :
    (nextOf (step { idle 3 with closing := 1, inputs := [⟨.after 0, .command [0x09]⟩] })).map
      (fun t => (t.sess, t.history, nextOf (step t) |>.map (fun u => (u.lastSt, u.history)))) =
    some (.closed, [.rts false, .done .closeSession .ok .empty],
      some (.refused, [.rts false, .done .closeSession .ok .empty, .done .releaseBus .refused .empty])) := by decide
/-- A pending CLOSE does not count in the admission of a Codec operation (R200). -/
theorem test_admission_after_abort :
    (after (.intTo3Bytes 0x0A0B0C) { idle 3 with closing := 1 }).map (fun t => (t.lastSt, t.result, t.closing)) =
      some (.ok, .threeBytes 0x0A 0x0B 0x0C, 1) := by decide
/-- A table word placed for the next step runs: ENCODE(0) of the reset TX packet. -/
theorem test_withFetchWord :
    (nextOf (step (State.reset.withFetchWord 16 0x0003))).map (fun t => (t.result, t.inputs)) =
      some (.bytes [0x3B, 0x03, 0, 0, 0, 0xFD], []) := by decide

/-! ## Witnesses -/

/-- The packet with an empty payload from a device to the host. -/
def reply : Packet := emptyPacket 0x12 0x20 2

/-- A packet between two other devices. -/
def foreignPacket : Packet := emptyPacket 0x10 0x0D 1

/-- A reset is presented now. -/
def resetNow : Input := { timing := .after 0, what := .reset }

/-- READ_PACKET scanning, and polling TakeBus, as states with the invariant. -/
theorem scanning_inv (ctrl : Byte) (h : ctrl &&& 0xF8 = 0) (rxIn : List Arrival) :
    (reading ctrl .scanning 0 0 0 rxIn).Inv := reading_inv h (by decide) ⟨rfl, rfl⟩

theorem witness_ResetAbandonsTheRunningOperation :
    ({ reading 0 .payload 0 4 0 [] with inputs := [resetNow] } : State).inputs = resetNow :: [] := rfl

theorem witness_EveryStepKeepsTheInvariant :
    (reading 2 .scanning 0 0 0 [.byte 0x3B]).Inv ∧
      (nextOf (step (reading 2 .scanning 0 0 0 [.byte 0x3B]))).map (·.rstate) = some .header :=
  ⟨scanning_inv 2 (by decide) _, by decide⟩

/-- A command word with surplus, an abstract operation, and a frame; at once, and on an idle block. -/
theorem witness_StepRunsThePresentedOperation :
    decodeCommand [0x07, 0xFF] = .ok (.readPacket, [0xFF]) ∧
    decodeFrame [0x3B, 3, 0x12, 0x20, 2, 0xC9] = .ok (.frame 3 0x12 0x20 2 [] 0xC9, []) ∧
    (⟨.after 0, .command [0x07, 0xFF]⟩ : Input).timing = .after 0 ∧
    ((reading 0 .scanning 0 0 0 []).running ≠ none ∧ (idle 0).closing = 0 ∧
      issuedByHost (.frame 3 0x12 0x20 2 [] 0xC9) = false) ∧
    (⟨.onIdle, .call .readPacket⟩ : Input).timing = .onIdle ∧
    (idle 0).quiet ∧
    ({ idle 0 with inputs := [⟨.onIdle, .call .readPacket⟩] } : State).inputs = ⟨.onIdle, .call .readPacket⟩ :: [] :=
  ⟨by decide, by decide, rfl, ⟨by decide, rfl, rfl⟩, rfl, idle_quiet 0, rfl⟩

theorem witness_StepWithNothingPresentedIsTheEngine :
    (idle 0).inputs = [] ∧ (idle 0).quiet ∧
    ({ idle 0 with inputs := [⟨.after 1, .silence⟩] } : State).inputs = { timing := .after (0 + 1), what := .silence } :: [] ∧
    ({ reading 0 .scanning 0 0 0 [] with inputs := [⟨.onIdle, .silence⟩] } : State).inputs =
      { timing := .onIdle, what := .silence } :: [] ∧
    ¬ ({ reading 0 .scanning 0 0 0 [] with inputs := [⟨.onIdle, .silence⟩] } : State).quiet :=
  ⟨rfl, idle_quiet 0, rfl, rfl, fun h => by cases h.1⟩

theorem witness_WireBytesArriveInOrder :
    ({ idle 0 with inputs := [⟨.after 0, .wire [0x3B, 0x02]⟩] } : State).inputs =
      { timing := .after 0, what := .wire [0x3B, 0x02] } :: [] := rfl

/-- The lowest and the highest reserved code, the lowest and the highest reserved `sel`, and a payload one byte short. -/
theorem witness_ReservedCommandsAreRefused :
    13 ≤ (0x0D : Byte).toNat ∧ 13 ≤ (0xFF : Byte).toNat ∧ 2 ≤ (0x02 : Byte).toNat ∧ 2 ≤ (0xFF : Byte).toNat ∧
    ([] : List Byte).length < (1 : Byte).toNat ∧ (List.replicate 254 (0 : Byte)).length < (0xFF : Byte).toNat ∧
    ({ idle 0 with inputs := [⟨.after 0, .command [0x0C, 0x12, 0x01, 0x03, 0x0A, 0x0B]⟩] } : State).inputs =
      { timing := .after 0, what := .command [0x0C, 0x12, 0x01, 0x03, 0x0A, 0x0B] } :: [] :=
  ⟨by decide, by decide, by decide, by decide, by decide, by rw [List.length_replicate]; decide, rfl⟩

theorem witness_UndecodableCommandsAreRefused :
    decodeCommand [] = .error .empty ∧ decodeCommand [0x06, 0, 0, 0] = .error .short ∧
    ({ idle 0 with inputs := [⟨.after 0, .command []⟩] } : State).inputs = { timing := .after 0, what := .command [] } :: [] :=
  ⟨by decide, by decide, rfl⟩

theorem witness_DecodeOfEncode :
    (Instr.sendReceive 0 255 [0, 255]).wellFormed = true ∧ (Instr.intTo3Bytes (2 ^ 32 - 1)).wellFormed = true ∧
    (Instr.frame 3 0xFF 0 0x3B [] 0x3B).wellFormed = true ∧ (Instr.encode 1).wellFormed = true := by decide

theorem witness_EncodeOfDecode : decode [0x04, 0x01, 0x07] = .ok (.checksumValid 1, [0x07]) := by decide

/-- In range at both ends, out of range at both ends, and while busy. -/
theorem witness_BuildConstructsOrRefuses :
    (idle 0).busy = false ∧ goodPacket [0, 255, 1] [0, 255] ∧ ¬ goodPacket [256, 0, 0] [] ∧ ¬ goodPacket [0, 0, 0] [-1] ∧
    (reading 0 .scanning 0 0 0 []).busy = true := by
  refine ⟨rfl, ⟨by decide, by decide⟩, ?_, ?_, rfl⟩
  · intro h
    have := h.1 256 (by simp)
    omega
  · intro h
    have := h.1 (-1) (by simp)
    omega

theorem witness_EncodeGivesTheFrame :
    (idle 0).busy = false ∧ (withRx 0x12 0x20 2 [] 0xC9 (idle 0)).busy = false ∧
    (withRx 0x12 0x20 2 [] 0xC9 (idle 0)).rx.chkPresent = true ∧ (idle 0).rx.chkPresent = false ∧
    2 ≤ (2 : Byte).toNat := ⟨rfl, rfl, rfl, rfl, by decide⟩

/-- Two packets with one encoding differ at most in the received checksum. -/
theorem witness_EncodeHasTheTestableProperties : encodePacket reply = encodePacket (reply.received 7) := by decide

theorem witness_ChecksumValidTestsTheSum :
    (withRx 0x12 0x20 2 [] 0xC9 (idle 0)).Inv ∧ (withRx 0x12 0x20 2 [] 0xC9 (idle 0)).busy = false ∧
    (withRx 0x12 0x20 2 [] 0xC9 (idle 0)).rx.chkPresent = true ∧
    (idle 0).Inv ∧ (idle 0).busy = false ∧ (idle 0).rx.chkPresent = false ∧ (0 : Byte) ≠ 1 ∧ (2 : Byte) ≠ 1 :=
  ⟨withRx_inv 0 0x12 0x20 2 0xC9 (by decide), rfl, rfl, idle_inv 0 (by decide), rfl, rfl, by decide,
    by decide⟩

theorem witness_IntToThreeBytesSplits : (idle 0).busy = false ∧ (reading 0 .scanning 0 0 0 []).busy = true :=
  ⟨rfl, rfl⟩

theorem witness_DescribeGivesTheRecord :
    (withRx 0x12 0x20 2 [] 0xC8 (idle 0)).busy = false ∧ (withRx 0x12 0x20 2 [] 0xC8 (idle 0)).rx.chkPresent = true ∧
    (idle 0).busy = false ∧ (idle 0).rx.chkPresent = false ∧ 2 ≤ (2 : Byte).toNat :=
  ⟨rfl, rfl, rfl, rfl, by decide⟩

theorem witness_AdmissionTableRefuses :
    (idle 0).sess = .opened ∧ State.reset.sess = .closed ∧ (reading 0 .scanning 0 0 0 []).busy = true :=
  ⟨rfl, rfl, rfl⟩

theorem witness_OpenStartsTheSession : State.reset.sess = .closed ∧ State.reset.busy = false ∧ (idle 0).sess = .opened :=
  ⟨rfl, rfl, rfl⟩

theorem witness_CloseEndsTheSession : (idle 0).sess = .opened ∧ (idle 0).busy = false ∧ State.reset.sess = .closed :=
  ⟨rfl, rfl, rfl⟩

/-- At a CTS sample, and at a read with a byte waiting. -/
theorem witness_CloseAbortsAWaitingOperation :
    (working 1 false .send .sample .take .scanning 0 0 0 []).Inv ∧
    (working 1 false .send .sample .take .scanning 0 0 0 []).running = some ⟨.send, .sample⟩ ∧
    (working 1 false .send .sample .take .scanning 0 0 0 []).closing = 0 ∧
    (working 1 false .send .sample .take .scanning 0 0 0 []).inputs = [] ∧
    (reading 0 .scanning 0 0 0 [.byte 0x3B]).Inv ∧
    (reading 0 .scanning 0 0 0 [.byte 0x3B]).running = some ⟨.readPacket, .read⟩ ∧
    (reading 0 .scanning 0 0 0 [.byte 0x3B]).closing = 0 ∧ (reading 0 .scanning 0 0 0 [.byte 0x3B]).inputs = [] :=
  ⟨working_inv (by decide) ⟨rfl, rfl⟩ (by decide) ⟨rfl, .inr ⟨.inl rfl, rfl⟩⟩, rfl, rfl, rfl,
    scanning_inv 0 (by decide) _, rfl, rfl, rfl⟩

/-- A first CLOSE and a second one on a busy block, one on an idle block, and one that is pending. -/
theorem witness_EveryCloseIsAcceptedAndCompletes :
    (reading 0 .scanning 0 0 0 []).sess = .opened ∧ (reading 0 .scanning 0 0 0 []).busy = true ∧
    ({ reading 0 .scanning 0 0 0 [] with closing := 1 } : State).busy = true ∧
    (idle 0).sess = .opened ∧ (idle 0).busy = false ∧
    ({ idle 0 with closing := 1 } : State).inputs = [] ∧ ({ idle 0 with closing := 1 } : State).closing ≠ 0 :=
  ⟨rfl, rfl, rfl, rfl, rfl, rfl, by decide⟩

/-- A command word and an abstract operation behind a CLOSE that is next; a CLOSE pending with an operation running, and
with none. -/
theorem witness_AnEarlierCloseRunsFirst :
    ({ idle 0 with closing := 2, inputs := [⟨.after 0, .command [0x09]⟩] } : State).inputs =
      { timing := .after 0, what := .command [0x09] } :: [] ∧
    decodeCommand [0x09] = .ok (.releaseBus, []) ∧ issuedByHost .releaseBus = true ∧
    issuedByHost (.encode 1) = true ∧
    (idle 0).running = none ∧ ({ idle 0 with closing := 2 } : State).closing ≠ 0 ∧
    (∃ t, step { idle 0 with closing := 2 } = .next t) ∧
    ∃ t, step { reading 0 .scanning 0 0 0 [] with closing := 1, inputs := [⟨.after 0, .command [0x01]⟩] } = .next t ∧
      t.running = some ⟨.readPacket, .read⟩ ∧ t.closing = 2 :=
  ⟨rfl, by decide, rfl, by decide, rfl, by decide, ⟨_, rfl⟩, ⟨_, rfl, rfl, rfl⟩⟩

theorem witness_CloseEndsEveryOperation :
    (working 5 false .sendReceive .assertRts .take .scanning 0 0 0 []).Inv ∧
    (working 5 false .sendReceive .assertRts .take .scanning 0 0 0 []).running ≠ none ∧
    (working 5 false .sendReceive .assertRts .take .scanning 0 0 0 []).inputs = [] :=
  ⟨working_inv (by decide) ⟨rfl, rfl⟩ (by decide) ⟨rfl, .inr ⟨.inr rfl, rfl⟩⟩, (fun h => by cases h), rfl⟩

/-- No busy sample, and two. -/
theorem witness_TakeBusTakesAFreeBus :
    (idle 0).ready ∧ (idle 0).arb = false ∧
    ({ idle 1 with ctsIn := [false] } : State).ready ∧ ({ idle 1 with ctsIn := [false] } : State).arb = true ∧
    ({ idle 1 with ctsIn := [false] } : State).ctsIn = List.replicate 0 true ++ false :: [] ∧
    ({ idle 1 with ctsIn := [true, true, false] } : State).ctsIn = List.replicate 2 true ++ false :: [] :=
  ⟨idle_ready 0, rfl, ⟨rfl, rfl, rfl, rfl⟩, rfl, rfl, rfl⟩

theorem witness_TakeBusPollsWithoutBound :
    ({ working 1 false .takeBus .sample .idle .scanning 0 0 0 [] with ctsIn := [true] } : State).running =
      some ⟨.takeBus, .sample⟩ ∧
    ({ working 1 false .takeBus .sample .idle .scanning 0 0 0 [] with ctsIn := [true] } : State).closing = 0 ∧
    ({ working 1 false .takeBus .sample .idle .scanning 0 0 0 [] with ctsIn := [true] } : State).inputs = [] ∧
    ({ working 1 false .takeBus .sample .idle .scanning 0 0 0 [] with ctsIn := [true] } : State).ctsIn =
      List.replicate 1 true ++ [] := ⟨rfl, rfl, rfl, rfl⟩

theorem witness_ReleaseBusDeassertsRts :
    ({ idle 1 with rts := true } : State).sess = .opened ∧ ({ idle 1 with rts := true } : State).busy = false ∧
    ({ idle 1 with rts := true } : State).arb = true ∧ (idle 0).sess = .opened ∧ (idle 0).busy = false ∧
    (idle 0).arb = false := ⟨rfl, rfl, rfl, rfl, rfl, rfl⟩

/-- A step that asserts RTS, one that deasserts it in an open session, and a sample that answers 0. -/
theorem witness_RtsChangesOnlyWhereTheSpecSays :
    (working 1 false .takeBus .assertRts .idle .scanning 0 0 0 []).Inv ∧
    (working 1 false .takeBus .assertRts .idle .scanning 0 0 0 []).rts = false ∧
    (nextOf (step (working 1 false .takeBus .assertRts .idle .scanning 0 0 0 []))).map (·.rts) = some true ∧
    (working 1 true .receive .release .echo .done 0 3 0 []).Inv ∧
    (working 1 true .receive .release .echo .done 0 3 0 []).rts = true ∧
    (nextOf (step (working 1 true .receive .release .echo .done 0 3 0 []))).map (·.rts) = some false ∧
    (nextOf (step { working 1 false .takeBus .sample .idle .scanning 0 0 0 [] with ctsIn := [false] })).map
      (·.running) = some (some ⟨.takeBus, .assertRts⟩) :=
  ⟨working_inv (by decide) ⟨rfl, rfl⟩ (by decide) ⟨rfl, .inl ⟨rfl, rfl⟩⟩, rfl, by decide,
    working_inv (by decide) ⟨rfl, rfl⟩ (by decide) ⟨.inl rfl, rfl, rfl, rfl⟩, rfl, by decide, by decide⟩

theorem good_send : goodPacket [0x12, 0xFF] [0] := ⟨by decide, by decide⟩

/-- An arbitrated session with one busy sample, and one without arbitration. -/
theorem witness_SendWritesOneFrame :
    ({ idle 5 with ctsIn := [true, false] } : State).ready ∧ goodPacket [0x12, 0xFF] [0] ∧
    ({ idle 5 with ctsIn := [true, false] } : State).ctsIn = List.replicate 1 true ++ false :: [] ∧
    (idle 2).ready ∧ (idle 2).arb = false := ⟨⟨rfl, rfl, rfl, rfl⟩, good_send, rfl, idle_ready 2, rfl⟩

theorem witness_MalformedPacketTouchesNothing :
    (idle 0).busy = false ∧ (idle 0).sess = .opened ∧ ¬ goodPacket [256, 0] [] ∧ ¬ goodPacket [0, 0] (List.replicate 253 0) := by
  refine ⟨rfl, rfl, ?_, ?_⟩
  · intro h
    have := h.1 256 (by simp)
    omega
  · intro h
    have := h.2
    rw [List.length_replicate] at this
    omega

theorem witness_SendReceiveIsSendThenReceive :
    ({ idle 1 with ctsIn := [false] } : State).ready ∧ goodPacket [0x12, 0xFF] [0] ∧
    ({ idle 1 with ctsIn := [false] } : State).ctsIn = List.replicate 0 true ++ false :: [] :=
  ⟨⟨rfl, rfl, rfl, rfl⟩, good_send, rfl⟩

theorem witness_ReadsStartInScanning : (idle 1).sess = .opened ∧ (idle 1).quiet := ⟨rfl, idle_quiet 1⟩

theorem witness_ReaderInvertsEncode :
    ({ idle 4 with rxIn := arriving (encodePacket reply) } : State).ready ∧
    ({ idle 4 with rxIn := arriving (encodePacket reply) } : State).Inv ∧ reply.data.length ≤ 252 ∧
    ({ idle 4 with rxIn := arriving (encodePacket reply) } : State).rxIn = arriving (encodePacket reply) ++ [] :=
  ⟨⟨rfl, rfl, rfl, rfl⟩,
    (idle_inv 4 (by decide)).congr_outside 0x20 1 (arriving (encodePacket reply)) [] 0 [] [], by decide,
    (List.append_nil _).symm⟩

/-- Two bytes of noise, a frame with a wrong checksum, and a byte after it. -/
theorem witness_ReaderResynchronises :
    ({ idle 4 with rxIn := arriving ([1, 2] ++ wireFrame reply 0) ++ [.byte 9] } : State).ready ∧
    ({ idle 4 with rxIn := arriving ([1, 2] ++ wireFrame reply 0) ++ [.byte 9] } : State).Inv ∧
    reply.data.length ≤ 252 ∧ (∀ b ∈ ([1, 2] : List Byte), b ≠ 0x3B) ∧
    ({ idle 4 with rxIn := arriving ([1, 2] ++ wireFrame reply 0) ++ [.byte 9] } : State).rxIn =
      arriving ([1, 2] ++ wireFrame reply 0) ++ [.byte 9] :=
  ⟨⟨rfl, rfl, rfl, rfl⟩, (idle_inv 4 (by decide)).congr_outside 0x20 1 _ [] 0 [] [], by decide, by decide, rfl⟩

/-- Each state of the Reader that reads, and in HEADER each place: LEN at 2 and at 3, then SRC, RCV, CMD. -/
theorem witness_ReaderTransitionsOnAByte :
    (reading 0 .scanning 0 0 0 [.byte 0x3B]).Inv ∧ (reading 0 .scanning 0 0 0 [.byte 0x3A]).Inv ∧
    (reading 0 .header 0 0 0 [.byte 3]).Inv ∧ (reading 0 .header 0 0 0 [.byte 2]).Inv ∧
    (reading 0 .header 1 3 0 [.byte 0]).Inv ∧ (reading 0 .header 2 3 0 [.byte 0]).Inv ∧
    (reading 0 .header 3 3 0 [.byte 0]).Inv ∧ (reading 0 .header 3 4 0 [.byte 0]).Inv ∧
    (reading 0 .payload 0 5 0 [.byte 0]).Inv ∧ (reading 0 .payload 0 255 251 [.byte 0]).Inv ∧
    (reading 0 .checksum 0 255 252 [.byte 0]).Inv ∧
    (reading 0 .checksum 0 255 252 [.byte 0]).running = some ⟨.readPacket, .read⟩ ∧
    (reading 0 .checksum 0 255 252 [.byte 0]).closing = 0 ∧ (reading 0 .checksum 0 255 252 [.byte 0]).inputs = [] ∧
    (reading 0 .checksum 0 255 252 [.byte 0]).rxIn = .byte 0 :: [] :=
  ⟨scanning_inv 0 (by decide) _, scanning_inv 0 (by decide) _,
    reading_inv (by decide) (by decide) ⟨rfl, by decide⟩, reading_inv (by decide) (by decide) ⟨rfl, by decide⟩,
    reading_inv (by decide) (by decide) ⟨rfl, by decide⟩, reading_inv (by decide) (by decide) ⟨rfl, by decide⟩,
    reading_inv (by decide) (by decide) ⟨rfl, by decide⟩, reading_inv (by decide) (by decide) ⟨rfl, by decide⟩,
    reading_inv (by decide) (by decide) ⟨rfl, by decide⟩, reading_inv (by decide) (by decide) ⟨rfl, by decide⟩,
    reading_inv (by decide) (by decide) ⟨rfl, by decide⟩, rfl, rfl, rfl, rfl⟩

/-- In the middle of a frame, for READ_PACKET and for RECEIVE's response loop. -/
theorem witness_NoByteAfterSomEndsTheRead :
    (reading 0 .header 0 0 0 [.silence]).Inv ∧ (reading 0 .header 0 0 0 [.silence]).rstate ≠ .scanning ∧
    (reading 0 .header 0 0 0 [.silence]).running = some ⟨.readPacket, .read⟩ ∧
    (reading 0 .header 0 0 0 [.silence]).closing = 0 ∧ (reading 0 .header 0 0 0 [.silence]).inputs = [] ∧
    (reading 0 .header 0 0 0 [.silence]).rxIn = .silence :: [] ∧
    (working 0 false .receive .read .resp .checksum 0 3 0 [.silence]).Inv :=
  ⟨reading_inv (by decide) (by decide) ⟨rfl, by decide⟩, (fun h => by cases h), rfl, rfl, rfl, rfl,
    working_inv (by decide) ⟨rfl, rfl⟩ (by decide) ⟨.inr ⟨.inl rfl, .inr ⟨rfl, rfl⟩⟩, by decide⟩⟩

theorem witness_NoByteWhileScanningFollowsThePolicy :
    (reading 2 .scanning 0 0 0 [.silence]).running = some ⟨.readPacket, .read⟩ ∧
    (reading 2 .scanning 0 0 0 [.silence]).closing = 0 ∧ (reading 2 .scanning 0 0 0 [.silence]).inputs = [] ∧
    (reading 2 .scanning 0 0 0 [.silence]).rxIn = .silence :: [] ∧
    (reading 2 .scanning 0 0 0 [.silence]).rstate = .scanning ∧
    (reading 2 .scanning 0 0 0 [.silence]).abortOnTimeout = true ∧
    (reading 0 .scanning 0 0 0 [.silence]).abortOnTimeout = false := ⟨rfl, rfl, rfl, rfl, rfl, rfl, rfl⟩

theorem witness_ScanningNeverGivesUp :
    (reading 4 .scanning 0 0 0 [.silence, .byte 7]).running = some ⟨.readPacket, .read⟩ ∧
    (reading 4 .scanning 0 0 0 [.silence, .byte 7]).closing = 0 ∧
    (reading 4 .scanning 0 0 0 [.silence, .byte 7]).inputs = [] ∧
    (reading 4 .scanning 0 0 0 [.silence, .byte 7]).rstate = .scanning ∧
    (reading 4 .scanning 0 0 0 [.silence, .byte 7]).abortOnTimeout = false ∧
    (∀ a ∈ [Arrival.silence, .byte 7], a ≠ .byte 0x3B) ∧
    (reading 4 .scanning 0 0 0 [.silence, .byte 7]).rxIn = [.silence, .byte 7] ++ [] :=
  ⟨rfl, rfl, rfl, rfl, rfl, by decide, rfl⟩

theorem witness_LenBelowThreeIsRejected :
    (reading 0 .header 0 0 0 [.byte 2]).running = some ⟨.readPacket, .read⟩ ∧
    (reading 0 .header 0 0 0 [.byte 2]).closing = 0 ∧ (reading 0 .header 0 0 0 [.byte 2]).inputs = [] ∧
    (reading 0 .header 0 0 0 [.byte 2]).rxIn = .byte 2 :: [] ∧ (reading 0 .header 0 0 0 [.byte 2]).rstate = .header ∧
    (reading 0 .header 0 0 0 [.byte 2]).hidx = 0 ∧ (2 : Byte).toNat < 3 := ⟨rfl, rfl, rfl, rfl, rfl, rfl, by decide⟩

/-- RECEIVE at the last byte of the echo, with DEBUG = 1. -/
def echoing : State := working 5 true .receive .read .echo .checksum 0 3 0 [.byte 0xCA]

theorem witness_EchoIsDroppedAndTheBusReleased :
    echoing.Inv ∧ echoing.running = some ⟨.receive, .read⟩ ∧ echoing.sstate = .echo ∧ echoing.rstate = .checksum ∧
    echoing.closing = 0 ∧ echoing.inputs = [] ∧ echoing.rxIn = .byte 0xCA :: [] :=
  ⟨working_inv (by decide) ⟨rfl, rfl⟩ (by decide) ⟨.inr ⟨.inl rfl, .inl ⟨rfl, rfl⟩⟩, by decide⟩, rfl, rfl, rfl, rfl,
    rfl, rfl⟩

/-- A timeout in the echo step: while scanning with the policy set, and in mid-frame. -/
theorem witness_EchoTimeoutKeepsTheBus :
    (working 3 true .receive .read .echo .scanning 0 0 0 [.silence]).running = some ⟨.receive, .read⟩ ∧
    (working 3 true .receive .read .echo .scanning 0 0 0 [.silence]).sstate = .echo ∧
    (working 3 true .receive .read .echo .scanning 0 0 0 [.silence]).abortOnTimeout = true ∧
    (working 3 true .receive .read .echo .scanning 0 0 0 [.silence]).closing = 0 ∧
    (working 3 true .receive .read .echo .scanning 0 0 0 [.silence]).inputs = [] ∧
    (working 3 true .receive .read .echo .scanning 0 0 0 [.silence]).rxIn = .silence :: [] ∧
    (working 1 true .receive .read .echo .header 0 0 0 [.silence]).rstate ≠ .scanning :=
  ⟨rfl, rfl, rfl, rfl, rfl, rfl, fun h => by cases h⟩

theorem witness_ResponseTimeoutIsNoResponse :
    (working 3 false .sendReceive .read .resp .scanning 0 0 0 [.silence]).Inv ∧
    (working 3 false .sendReceive .read .resp .scanning 0 0 0 [.silence]).running = some ⟨.sendReceive, .read⟩ ∧
    (working 3 false .sendReceive .read .resp .scanning 0 0 0 [.silence]).sstate = .resp ∧
    (working 3 false .sendReceive .read .resp .scanning 0 0 0 [.silence]).abortOnTimeout = true ∧
    (working 3 false .sendReceive .read .resp .scanning 0 0 0 [.silence]).closing = 0 ∧
    (working 3 false .sendReceive .read .resp .scanning 0 0 0 [.silence]).inputs = [] ∧
    (working 3 false .sendReceive .read .resp .scanning 0 0 0 [.silence]).rxIn = .silence :: [] ∧
    (working 1 false .receive .read .resp .payload 0 4 0 [.silence]).Inv :=
  ⟨working_inv (by decide) ⟨rfl, rfl⟩ (by decide) ⟨.inr ⟨.inr rfl, .inr ⟨rfl, rfl⟩⟩, by decide⟩, rfl, rfl, rfl, rfl,
    rfl, rfl, working_inv (by decide) ⟨rfl, by decide⟩ (by decide) ⟨.inr ⟨.inl rfl, .inr ⟨rfl, rfl⟩⟩, by decide⟩⟩

/-- An open session with bytes to come and CTS levels to come. -/
def listening (ctrl : Byte) (rts : Bool) (ctsIn : List Bool) (bytes : List Byte) : State :=
  { idle ctrl with rts := rts, ctsIn := ctsIn, rxIn := arriving bytes }

theorem listening_inv (ctrl : Byte) (rts : Bool) (ctsIn : List Bool) (bytes : List Byte) (h : ctrl &&& 0xF8 = 0)
    (hr : rts = true → ctrl.getLsbD 0 = true) : (listening ctrl rts ctsIn bytes).Inv :=
  ⟨h, zeroBuffer_length, Nat.zero_le _, zeroBuffer_length, ⟨rfl, rfl⟩,
    ⟨(fun h => by cases h), (fun h => by cases h)⟩, fun h => ⟨rfl, hr h⟩, fun h => absurd rfl h,
    fun h => absurd rfl h, fun _ => rfl, fun _ => rfl, fun _ => rfl, fun t h => by cases h⟩

/-- An arbitrated bus with DEBUG = 1: an echo, a packet for another device, and the reply; and a link without
arbitration. -/
theorem witness_ReceiveReturnsTheFirstAddressedPacket :
    (listening 5 true [] (wireFrame reply 0 ++ wireFrames [(foreignPacket, 0)] ++ wireFrame reply 0xC9)).ready ∧
    (listening 5 true [] (wireFrame reply 0 ++ wireFrames [(foreignPacket, 0)] ++ wireFrame reply 0xC9)).Inv ∧
    (∀ f ∈ [(foreignPacket, (0 : Byte))], f.1.data.length ≤ 252 ∧ f.1.rcv ≠ 0x20) ∧ reply.rcv = 0x20 ∧
    reply.data.length ≤ 252 ∧
    (listening 5 true [] (wireFrame reply 0 ++ wireFrames [(foreignPacket, 0)] ++ wireFrame reply 0xC9)).rxIn =
      arriving (wireFrame reply 0 ++ wireFrames [(foreignPacket, 0)] ++ wireFrame reply 0xC9) ++ [] ∧
    (listening 0 false [] (wireFrames [] ++ wireFrame reply 0xC9)).Inv ∧
    (listening 0 false [] (wireFrames [] ++ wireFrame reply 0xC9)).arb = false :=
  ⟨⟨rfl, rfl, rfl, rfl⟩, listening_inv 5 true [] _ (by decide) (by decide), by decide, rfl, by decide,
    (List.append_nil _).symm, listening_inv 0 false [] _ (by decide) (by decide), rfl⟩

theorem witness_SendReceiveReturnsTheFirstAddressedPacket :
    (listening 5 false [true, false] (wireFrame reply 0 ++ wireFrames [] ++ wireFrame reply 0xC9)).ready ∧
    (listening 5 false [true, false] (wireFrame reply 0 ++ wireFrames [] ++ wireFrame reply 0xC9)).Inv ∧
    goodPacket [0x12, 0xFF] [0] ∧
    (listening 5 false [true, false] (wireFrame reply 0 ++ wireFrames [] ++ wireFrame reply 0xC9)).ctsIn =
      List.replicate 1 true ++ false :: [] ∧ reply.rcv = 0x20 ∧ reply.data.length ≤ 252 ∧
    (listening 5 false [true, false] (wireFrame reply 0 ++ wireFrames [] ++ wireFrame reply 0xC9)).rxIn =
      arriving (wireFrame reply 0 ++ wireFrames [] ++ wireFrame reply 0xC9) ++ [] :=
  ⟨⟨rfl, rfl, rfl, rfl⟩, listening_inv 5 false _ _ (by decide) (by decide), good_send, rfl, rfl, by decide,
    (List.append_nil _).symm⟩

theorem witness_FilteringNeverGivesUp :
    (working 4 false .receive .read .resp .scanning 0 0 0 (arriving (wireFrames [(foreignPacket, 0)]))).Inv ∧
    (working 4 false .receive .read .resp .scanning 0 0 0 (arriving (wireFrames [(foreignPacket, 0)]))).running =
      some ⟨.receive, .read⟩ ∧
    (working 4 false .receive .read .resp .scanning 0 0 0 (arriving (wireFrames [(foreignPacket, 0)]))).sstate = .resp ∧
    (∀ f ∈ [(foreignPacket, (0 : Byte))], f.1.data.length ≤ 252 ∧ f.1.rcv ≠ 0x20) ∧
    (working 4 false .receive .read .resp .scanning 0 0 0 (arriving (wireFrames [(foreignPacket, 0)]))).rxIn =
      arriving (wireFrames [(foreignPacket, 0)]) ++ [] :=
  ⟨working_inv (by decide) ⟨rfl, rfl⟩ (by decide) ⟨.inr ⟨.inl rfl, .inr ⟨rfl, rfl⟩⟩, by decide⟩, rfl, rfl,
    by decide, (List.append_nil _).symm⟩

theorem witness_NoDebugRecordWithoutDebug :
    (reading 2 .scanning 0 0 0 [.byte 1]).Inv ∧ (reading 2 .scanning 0 0 0 [.byte 1]).debug = false ∧
    (nextOf (step (reading 2 .scanning 0 0 0 [.byte 1]))).map (·.history) = some [.rx (.byte 1)] :=
  ⟨scanning_inv 2 (by decide) _, rfl, by decide⟩

/-- A byte of noise, the last byte of a frame for another device, and a frame about to be written. -/
theorem witness_DebugRecordsInOrder :
    (reading 4 .scanning 0 0 0 [.byte 0x3A]).Inv ∧ (reading 4 .scanning 0 0 0 [.byte 0x3A]).debug = true ∧
    (reading 4 .scanning 0 0 0 [.byte 0x3A]).running = some ⟨.readPacket, .read⟩ ∧ (0x3A : Byte) ≠ 0x3B ∧
    (working 4 false .receive .read .resp .checksum 0 3 0 [.byte 0]).Inv ∧
    (working 4 false .receive .read .resp .checksum 0 3 0 [.byte 0]).rstate = .checksum ∧
    (working 4 false .receive .read .resp .checksum 0 3 0 [.byte 0]).sstate = .resp ∧
    (working 4 false .receive .read .resp .checksum 0 3 0 [.byte 0]).rx.rcv ≠ 0x20 ∧
    (working 4 false .send .debugTx .write .scanning 0 0 0 []).Inv ∧
    (working 4 false .send .debugTx .write .scanning 0 0 0 []).running = some ⟨.send, .debugTx⟩ :=
  ⟨scanning_inv 4 (by decide) _, rfl, rfl, by decide,
    working_inv (by decide) ⟨rfl, rfl⟩ (by decide) ⟨.inr ⟨.inl rfl, .inr ⟨rfl, rfl⟩⟩, by decide⟩, rfl, rfl, by decide,
    working_inv (by decide) ⟨rfl, rfl⟩ (by decide) ⟨rfl, .inl rfl, rfl⟩, rfl⟩

/-- A step that writes the configuration, one that does not, and a reset. -/
theorem witness_OnlyOpenWritesTheConfiguration :
    (idle 3).sess = .opened ∧
    (nextOf (step { State.reset with inputs := [⟨.after 0, .command [0x00, 0x21, 0x07, 0x05]⟩] })).map (·.ctrl) =
      some 7 ∧
    (nextOf (step (idle 3))).map (·.ctrl) = some 3 ∧
    (nextOf (step { idle 3 with inputs := [resetNow] })).map (·.ctrl) = some 0 := by decide

theorem witness_OnlyConstructionWritesTheTxRegister :
    (nextOf (step { idle 0 with inputs := [⟨.onIdle, .command [0x02, 1, 2, 3, 0]⟩] })).map (·.tx.src) = some 1 ∧
    (nextOf (step (idle 0))).map (·.tx.src) = some 0 := by decide

theorem witness_TheReceiveQueueIsNeverFlushed :
    (reading 0 .scanning 0 0 0 [.byte 1, .byte 2]).Inv ∧
    (nextOf (step (reading 0 .scanning 0 0 0 [.byte 1, .byte 2]))).map (·.rxIn) = some [.byte 2] ∧
    (nextOf (step { reading 0 .scanning 0 0 0 [.byte 1] with inputs := [⟨.after 0, .silence⟩] })).map (·.rxIn) =
      some [.byte 1, .silence] ∧
    (idle 0).Inv ∧ (after .closeSession { idle 0 with rxIn := [.byte 1] }).map (·.rxIn) = some [] :=
  ⟨scanning_inv 0 (by decide) _, by decide, by decide, idle_inv 0 (by decide), by decide⟩

theorem witness_TheHistoryOnlyGrows :
    (nextOf (step (reading 0 .scanning 0 0 0 [.byte 1]))).map (·.history) = some [.rx (.byte 1)] := by decide

theorem witness_RegistersByNumber : 9 ≤ (9 : Byte).toNat ∧ 9 ≤ (0xFF : Byte).toNat := by decide

theorem witness_LineReadsTakeAFreshSample :
    ({ idle 0 with ctsIn := [true] } : State).ctsIn = true :: [] ∧ (3 : Byte) ≠ 0x04 ∧ (5 : Byte) ≠ 0x04 :=
  ⟨rfl, by decide, by decide⟩

end Sys2Proof.Tests
end

section
/-! The reset values (R45): the registers are read off `State.reset`; BUSY and the two output streams are views, of
`running` and of the history. -/

namespace Sys2Proof.Machine

/-- With no event there is no debug record (R43). -/
theorem debugOutput_of_history_nil {s : State} (h : s.history = []) : s.debugOutput = [] := by
  simp [State.debugOutput, h]

/-- With no event nothing was written to the line (R37). -/
theorem txStream_of_history_nil {s : State} (h : s.history = []) : s.txStream = [] := by
  simp [State.txStream, h]

/-- Settles O1: the registers by the definition of the reset state, BUSY because nothing runs, and the debug output and
the TX stream because the history is empty. -/
theorem resetLeavesTheStatedValues : Obligations.ResetLeavesTheStatedValues := by
  have hidle : State.reset.busy = false := not_busy_of_none rfl
  have hhistory : State.reset.history = [] := rfl
  exact ⟨rfl, rfl, rfl, rfl, hidle, rfl, rfl, rfl, rfl, rfl, rfl, rfl, rfl, rfl, rfl, rfl, rfl,
    debugOutput_of_history_nil hhistory, txStream_of_history_nil hhistory, hhistory⟩

end Sys2Proof.Machine
end

section
/-! The reserved command encodings (R105): the decoder answers each of them with an error, or with an operation that the
block refuses whatever its state and that waits for no CLOSE. -/

namespace Sys2Proof

/-- A count byte beyond the bytes that follow it leaves the payload without a decoding (R105). -/
theorem decodeData_short {n : Byte} {data : List Byte} (h : data.length < n.toNat) : decodeData (n :: data) = none := by
  simp [decodeData, splitBytes_short h]

theorem decodeCommand_build_short {n : Byte} {data : List Byte} (src rcv cmd : Byte) (h : data.length < n.toNat) :
    decodeCommand (0x02 :: src :: rcv :: cmd :: n :: data) = .error .short := by
  have hbuild : decodeBuild (src :: rcv :: cmd :: n :: data) = .error .short := by
    simp only [decodeBuild, decodeData_short h]
  exact hbuild

theorem decodeSend_short {n : Byte} {data : List Byte} (op : Int → Int → List Int → Instr) (dst cmd : Byte)
    (h : data.length < n.toNat) : decodeSend op (dst :: cmd :: n :: data) = .error .short := by
  simp only [decodeSend, decodeData_short h]

theorem decodeCommand_send_short {opc n : Byte} {data : List Byte} (ho : opc = 0x0A ∨ opc = 0x0C) (dst cmd : Byte)
    (h : data.length < n.toNat) : decodeCommand (opc :: dst :: cmd :: n :: data) = .error .short := by
  rcases ho with rfl | rfl
  · exact decodeSend_short .send dst cmd h
  · exact decodeSend_short .sendReceive dst cmd h

/-- An OPC with one of bits 7:4 set is no operation code (R102). -/
theorem decodeCommand_highBits {opc : Byte} (ops : List Byte) (h : 16 ≤ opc.toNat) :
    decodeCommand (opc :: ops) = .error .reservedHighBits := by
  obtain ⟨k, hk⟩ := Nat.exists_eq_add_of_le' h
  rw [decodeCommand, hk]
  rfl

/-- The codes 0x0D to 0x0F decode to the reserved operations. -/
theorem decodeCommand_reservedCode {opc : Byte} (ops : List Byte) (hlow : 13 ≤ opc.toNat) (hhigh : opc.toNat < 16) :
    ∃ i, (i = .reserved0D ∨ i = .reserved0E ∨ i = .reserved0F) ∧ decodeCommand (opc :: ops) = .ok (i, ops) := by
  have hcode : opc.toNat = 13 ∨ opc.toNat = 14 ∨ opc.toNat = 15 := by omega
  rw [decodeCommand]
  rcases hcode with hcode | hcode | hcode <;> rw [hcode]
  · exact ⟨.reserved0D, .inl rfl, rfl⟩
  · exact ⟨.reserved0E, .inr (.inl rfl), rfl⟩
  · exact ⟨.reserved0F, .inr (.inr rfl), rfl⟩

/-- The three operations that take a `sel`, by their codes (R103). -/
theorem decodeCommand_sel {opc : Byte} (ho : opc = 0x03 ∨ opc = 0x04 ∨ opc = 0x05) (sel : Byte) (ops : List Byte) :
    ∃ i, (i = .encode sel ∨ i = .checksumValid sel ∨ i = .describe sel) ∧
      decodeCommand (opc :: sel :: ops) = .ok (i, ops) := by
  rcases ho with rfl | rfl | rfl
  · exact ⟨.encode sel, .inl rfl, rfl⟩
  · exact ⟨.checksumValid sel, .inr (.inl rfl), rfl⟩
  · exact ⟨.describe sel, .inr (.inr rfl), rfl⟩

namespace Machine

/-- The operation is refused whatever the block is doing, and is none of those that wait for a CLOSE (R105). -/
def AlwaysRefused (i : Instr) : Prop :=
  issuedByHost i = false ∧ ∃ op, ∀ s, exec i s = .next (s.ended op .refused .empty)

theorem alwaysRefused_reservedCode {i : Instr} (h : i = .reserved0D ∨ i = .reserved0E ∨ i = .reserved0F) :
    AlwaysRefused i := by
  rcases h with rfl | rfl | rfl <;> exact ⟨rfl, .reserved, fun _ => rfl⟩

/-- A Codec operation without a result is refused, busy or not (R105, R120). -/
theorem codecStep_of_none {op : OpName} {res : State → Option Result} {s : State} (h : res s = none) :
    codecStep op (fun s => finishOption op (res s) s) s = .next (s.ended op .refused .empty) := by
  unfold codecStep
  simp only [h, finishOption, ite_self]
  rfl

theorem exec_encode_of_none {sel : Byte} {s : State} (h : selPacket sel s = none) :
    exec (.encode sel) s = .next (s.ended .encode .refused .empty) := by
  rw [exec, execEncode]
  exact codecStep_of_none (by simp only [h, Option.map_none])

theorem exec_checksumValid_of_none {sel : Byte} {s : State} (h : selPacket sel s = none) :
    exec (.checksumValid sel) s = .next (s.ended .checksumValid .refused .empty) := by
  rw [exec, execChecksumValid]
  exact codecStep_of_none (by simp only [h, Option.bind_none, Option.map_none])

theorem exec_describe_of_none {sel : Byte} {s : State} (h : selPacket sel s = none) :
    exec (.describe sel) s = .next (s.ended .describe .refused .empty) := by
  rw [exec, execDescribe]
  exact codecStep_of_none (by simp only [h, Option.map_none])

/-- A reserved `sel` selects no packet, so the operation has no result (R105). -/
theorem alwaysRefused_reservedSel {i : Instr} {sel : Byte} (hsel : 2 ≤ sel.toNat)
    (h : i = .encode sel ∨ i = .checksumValid sel ∨ i = .describe sel) : AlwaysRefused i := by
  have hnone (s : State) : selPacket sel s = none := selPacket_of_none (.inl hsel)
  have hissued : decide (sel.toNat < 2) = false := decide_eq_false (Nat.not_lt.mpr hsel)
  rcases h with rfl | rfl | rfl
  · exact ⟨hissued, .encode, fun s => exec_encode_of_none (hnone s)⟩
  · exact ⟨hissued, .checksumValid, fun s => exec_checksumValid_of_none (hnone s)⟩
  · exact ⟨hissued, .describe, fun s => exec_describe_of_none (hnone s)⟩

/-- A command word presented now that decodes to nothing is refused in this step. -/
theorem step_of_undecodable {s : State} {bytes : List Byte} {later : List Input} {e : DecodeError}
    (h : s.inputs = { timing := .after 0, what := .command bytes } :: later) (hd : decodeCommand bytes = .error e) :
    step s = .next (({ s with inputs := later } : State).ended .reserved .refused .empty) := by
  have hi : interpret (.command bytes) = .reservedCommand := by simp only [interpret, hd]
  have hw : waitsForClose (interpret (.command bytes)) s = false := by rw [hi, waitsForClose_reserved]
  rw [step, fetch_now h hw, hi]
  rfl

/-- A command word presented now that decodes to an operation no host issues runs it in this step, pending CLOSEs or
not. -/
theorem step_of_notIssuedByHost {s : State} {bytes surplus : List Byte} {later : List Input} {i : Instr}
    (h : s.inputs = { timing := .after 0, what := .command bytes } :: later)
    (hd : decodeCommand bytes = .ok (i, surplus)) (hn : issuedByHost i = false) :
    step s = exec i { s with inputs := later } := by
  have hi : interpret (.command bytes) = .operation i := by simp only [interpret, hd]
  have hw : waitsForClose (interpret (.command bytes)) s = false := by
    simp only [hi, waitsForClose, hn, Bool.false_and]
  rw [step, fetch_now h hw, hi]

/-- The word decodes to nothing, or to an operation that is always refused: the reserved encodings of R105. -/
def ReservedWord (bytes : List Byte) : Prop :=
  (∃ e, decodeCommand bytes = .error e) ∨ ∃ i surplus, decodeCommand bytes = .ok (i, surplus) ∧ AlwaysRefused i

theorem step_of_reservedWord {s : State} {bytes : List Byte} {later : List Input}
    (h : s.inputs = { timing := .after 0, what := .command bytes } :: later) (hr : ReservedWord bytes) :
    ∃ op, step s = .next (({ s with inputs := later } : State).ended op .refused .empty) := by
  obtain ⟨e, he⟩ | ⟨i, surplus, hi, hn, op, hop⟩ := hr
  · exact ⟨.reserved, step_of_undecodable h he⟩
  · exact ⟨op, (step_of_notIssuedByHost h hi hn).trans (hop _)⟩

theorem reservedWord_code {opc : Byte} (ops : List Byte) (h : 13 ≤ opc.toNat) : ReservedWord (opc :: ops) := by
  by_cases hhigh : opc.toNat < 16
  · obtain ⟨i, hi, hd⟩ := decodeCommand_reservedCode ops h hhigh
    exact .inr ⟨i, ops, hd, alwaysRefused_reservedCode hi⟩
  · exact .inl ⟨_, decodeCommand_highBits ops (Nat.not_lt.mp hhigh)⟩

theorem reservedWord_sel {opc sel : Byte} (ops : List Byte) (ho : opc = 0x03 ∨ opc = 0x04 ∨ opc = 0x05)
    (hsel : 2 ≤ sel.toNat) : ReservedWord (opc :: sel :: ops) := by
  obtain ⟨i, hi, hd⟩ := decodeCommand_sel ho sel ops
  exact .inr ⟨i, ops, hd, alwaysRefused_reservedSel hsel hi⟩

/-- Settles O9: each of the four kinds of R105 is a reserved word, and a reserved word presented now is refused in that
step. -/
theorem reservedCommandsAreRefused : Obligations.ReservedCommandsAreRefused := by
  intro s bytes later hinputs hkind
  refine step_of_reservedWord hinputs ?_
  rcases hkind with ⟨opc, ops, rfl, hcode⟩ | ⟨opc, sel, ops, rfl, ho, hsel⟩ | ⟨src, rcv, cmd, n, data, rfl, hshort⟩ |
    ⟨opc, dst, cmd, n, data, rfl, ho, hshort⟩
  · exact reservedWord_code ops hcode
  · exact reservedWord_sel ops ho hsel
  · exact .inl ⟨_, decodeCommand_build_short src rcv cmd hshort⟩
  · exact .inl ⟨_, decodeCommand_send_short ho dst cmd hshort⟩

end Machine

end Sys2Proof
end

section
/-! READ_PACKET and `Encode` (R125): the encoding of a packet is its frame with its own checksum as the last byte, so
what one READ_PACKET does with any frame says what it does with the encoding. -/

namespace Sys2Proof.Machine

/-- What a packet hands over at READ_PACKET: it completes with the packet in the RX register (R158). -/
theorem packetRead_readPacket (s : State) :
    packetRead .readPacket s = complete .readPacket .ok (.packet s.rxPacket) s := if_pos rfl

theorem exec_readPacket_of_ready {s : State} (h : s.ready) :
    exec .readPacket s = .next (startRead (accept .readPacket .read s)) := by
  have hadmitted : admitted .readPacket s = true := by simp [admitted, h.opened, h.notRunning]
  rw [exec, execReadPacket, if_pos hadmitted]

/-- The state after READ_PACKET completed with a frame's packet; with DEBUG = 1 the DBG_RX record comes before the
completion record (R158, R212). -/
def afterPacketRead (p : Packet) (last : Byte) (queue : List Arrival) (s : State) : State :=
  complete .readPacket .ok (.packet (p.received last))
    ((afterFrame p last queue s).withEvents
      (if s.debug then [.dbg (.rx (describePacket (p.received last)))] else []))

/-- A whole frame read by READ_PACKET from SCANNING, up to its completion. -/
theorem runs_readPacket_frame {s : State} {p : Packet} {last : Byte} {more : List Arrival}
    (hr : s.running = some ⟨.readPacket, .read⟩) (hc : s.closing = 0) (h : s.inputs = []) (hsc : s.rstate = .scanning)
    (hcnt : s.rx.cnt = 0) (hbuf : s.rx.data.length = 252) (hl : p.data.length ≤ 252)
    (hs : s.rxIn = arriving (wireFrame p last) ++ more) :
    Runs (p.data.length + 6 + (if s.debug then 1 else 0)) s (afterPacketRead p last more s) := by
  have hframe := runs_frame hr hc h hsc hcnt hbuf hl hs
  have hpacket : (afterFrame p last more s).rxPacket = p.received last := rxPacket_afterFrame hl
  unfold afterPacketRead
  cases hd : s.debug with
  | false =>
    simp only [hd, Bool.false_eq_true, if_false, packetRead_readPacket, hpacket] at hframe ⊢
    exact runs_cast hframe rfl (by simp [State.withEvents])
  | true =>
    simp only [hd, if_true] at hframe ⊢
    have hrecord : taskStep ⟨.readPacket, .debugRx⟩ (goto .readPacket .debugRx (afterFrame p last more s)) =
        complete .readPacket .ok (.packet (p.received last))
          ((afterFrame p last more s).withEvents [.dbg (.rx (describePacket (p.received last)))]) := by
      rw [taskStep, debugRxStep, packetRead_readPacket, emit_rxPacket, goto_rxPacket, hpacket]
      rfl
    exact runs_trans hframe (runs_one (step_task h rfl hrecord))

/-- Settles O35: the queue begins with the packet's frame ending in its own checksum, and one READ_PACKET hands over
the packet of any frame. -/
theorem readerInvertsEncode : Obligations.ReaderInvertsEncode := by
  intro s p more hready hinv hl hqueue
  have hrun := runs_readPacket_frame (s := startRead (accept .readPacket .read s)) (last := chk p.body)
    rfl hready.notClosing hready.noInputs rfl rfl hinv.rxBuffer hl ((wireFrame_chk p).symm ▸ hqueue)
  refine ⟨_, _, chk p.body, exec_readPacket_of_ready hready, encodePacket_getLast? p, hrun, rfl, rfl, rfl,
    rxPacket_afterFrame (queue := more) hl, rfl, rfl, fun hd => ?_⟩
  have hd' : (startRead (accept .readPacket .read s)).debug = false := hd
  simp [afterPacketRead, afterFrame, State.withEvents, hd', wireFrame_chk, resultFor]

end Sys2Proof.Machine
end

section
/-! The Codec operations (40_codec.md): how each ends with its selected packet, the properties of `Encode` (R124), the
checksum test (R126), the bytes of a value (R128), and the checksum status and parsed value of a record (R131, R132). -/

namespace Sys2Proof

theorem decodeCommand_encode (sel : Byte) : decodeCommand [0x03, sel] = .ok (.encode sel, []) := rfl

theorem decodeCommand_checksumValid (sel : Byte) : decodeCommand [0x04, sel] = .ok (.checksumValid sel, []) := rfl

theorem decodeCommand_intTo3Bytes (v3 v2 v1 v0 : Byte) :
    decodeCommand [0x06, v3, v2, v1, v0] = .ok (.intTo3Bytes (valueOfBytes v3 v2 v1 v0), []) := rfl

namespace Machine

/-! ## How a Codec operation ends -/

/-- With no operation running a Codec operation runs in this step (R120). -/
theorem codecStep_of_idle {op : OpName} {s : State} (run : State → State)
    (ho : op = .build ∨ op = .encode ∨ op = .checksumValid ∨ op = .describe ∨ op = .intTo3Bytes)
    (hb : s.busy = false) : codecStep op run s = .next (run s) := by
  have hadmitted : admitted op s = true := by
    rcases ho with rfl | rfl | rfl | rfl | rfl <;> simp only [admitted, hb, Bool.not_false]
  exact if_pos hadmitted

/-- While an operation runs a Codec operation is refused (R120, R200). -/
theorem codecStep_of_busy {op : OpName} {s : State} (run : State → State)
    (ho : op = .build ∨ op = .encode ∨ op = .checksumValid ∨ op = .describe ∨ op = .intTo3Bytes)
    (hb : s.busy = true) : codecStep op run s = .next (s.ended op .refused .empty) := by
  have hrefused : ¬ admitted op s = true := by
    rcases ho with rfl | rfl | rfl | rfl | rfl <;> simp [admitted, hb]
  exact if_neg hrefused

theorem exec_encode_of_some {sel : Byte} {s : State} {p : Packet} (hb : s.busy = false) (h : selPacket sel s = some p) :
    exec (.encode sel) s = .next (s.ended .encode .ok (.bytes (encodePacket p))) := by
  rw [exec, execEncode, codecStep_of_idle _ (by simp) hb, h]
  rfl

theorem exec_describe_of_some {sel : Byte} {s : State} {p : Packet} (hb : s.busy = false)
    (h : selPacket sel s = some p) :
    exec (.describe sel) s = .next (s.ended .describe .ok (.record (describePacket p))) := by
  rw [exec, execDescribe, codecStep_of_idle _ (by simp) hb, h]
  rfl

/-- With a packet in the RX packet register its checksum is tested (R126). -/
theorem exec_checksumValid_rx {s : State} (hb : s.busy = false) (h : s.rx.chkPresent = true) :
    exec (.checksumValid 1) s =
      .next (s.ended .checksumValid .ok (.bit (s.rx.chk == chk s.rxPacket.body))) := by
  have hsel : selPacket 1 s = some s.rxPacket := selPacket_of_selected (.inr ⟨rfl, h, rfl⟩)
  rw [exec, execChecksumValid, codecStep_of_idle _ (by simp) hb, hsel]
  rfl

/-- The TX packet has no received checksum to test (R126, D24). -/
theorem exec_checksumValid_tx (s : State) :
    exec (.checksumValid 0) s = .next (s.ended .checksumValid .refused .empty) := by
  rw [exec, execChecksumValid]
  exact codecStep_of_none rfl

theorem exec_intTo3Bytes_of_idle {s : State} (v : Nat) (hb : s.busy = false) :
    exec (.intTo3Bytes v) s =
      .next (s.ended .intTo3Bytes .ok
        (.threeBytes (intToThreeBytes v).1 (intToThreeBytes v).2.1 (intToThreeBytes v).2.2)) := by
  rw [exec, execIntTo3Bytes, codecStep_of_idle _ (by simp) hb]
  rfl

theorem exec_intTo3Bytes_of_busy {s : State} (v : Nat) (hb : s.busy = true) :
    exec (.intTo3Bytes v) s = .next (s.ended .intTo3Bytes .refused .empty) := by
  rw [exec, execIntTo3Bytes, codecStep_of_busy _ (by simp) hb]

/-! ## `Encode` -/

theorem sumBytes_body (p : Packet) :
    sumBytes p.body = p.len.toNat + p.src.toNat + p.rcv.toNat + p.cmd.toNat + sumBytes p.data := by
  simp only [Packet.body, List.cons_append, List.nil_append, sumBytes_cons]
  omega

theorem encodePacket_length (p : Packet) : (encodePacket p).length = p.data.length + 6 := by
  simp [encodePacket, Packet.body]

/-- `Encode` loses nothing of a packet but its received checksum (R124): the header stands at fixed places, and both
encodings end in one checksum byte, so the payloads are what lies between. -/
theorem encodePacket_injective {p q : Packet} (h : encodePacket p = encodePacket q) :
    p.src = q.src ∧ p.rcv = q.rcv ∧ p.cmd = q.cmd ∧ p.data = q.data := by
  simp only [← wireFrame_chk, wireFrame, List.cons_append, List.nil_append, List.cons.injEq, true_and] at h
  obtain ⟨-, hsrc, hrcv, hcmd, htail⟩ := h
  exact ⟨hsrc, hrcv, hcmd, List.append_inj_left' htail rfl⟩

/-- Settles O15: the result is the selected packet's encoding, whose last byte is the negated sum of its body. -/
theorem encodeGivesTheFrame : Obligations.EncodeGivesTheFrame := by
  refine ⟨decodeCommand_encode, fun s hb => ⟨fun p sel hp => ?_, fun sel hnone => ?_⟩⟩
  · refine ⟨p.len, chk p.body, rfl, ?_, ?_⟩
    · rw [chk_toNat, sumBytes_body]
    · rw [exec_encode_of_some hb (selPacket_of_selected hp), ← wireFrame_chk]
      rfl
  · exact exec_encode_of_none (selPacket_of_none hnone)

/-- Settles O16: past SOM the encoding is the body and its checksum, which sum to 0 modulo 256. -/
theorem encodeHasTheTestableProperties : Obligations.EncodeHasTheTestableProperties := by
  intro p
  have hpast : (encodePacket p).drop 1 = p.body ++ [chk p.body] := rfl
  refine ⟨encodePacket_length p, rfl, ?_, fun q => encodePacket_injective⟩
  rw [hpast, sumBytes_append]
  exact sum_add_chk p.body

/-! ## The checksum test and the bytes of a value -/

/-- Settles O17: the bit compares RX_CHK with the checksum of the RX packet's body, whose LEN is RX_LEN by the
invariant. -/
theorem checksumValidTestsTheSum : Obligations.ChecksumValidTestsTheSum := by
  refine ⟨decodeCommand_checksumValid, fun s hinv hb => ⟨fun hp => ?_, fun hp => ?_, fun sel hsel => ?_⟩⟩
  · refine ⟨_, exec_checksumValid_rx hb hp, ?_, ?_⟩
    · rw [beq_iff_eq, encodePacket_getLast?, Option.some_inj, eq_comm]
    · rw [beq_iff_eq, eq_chk_iff, sumBytes_body, rxPacket_len hinv hp]
      rfl
  · exact exec_checksumValid_of_none (selPacket_of_none (.inr ⟨rfl, hp⟩))
  · by_cases h0 : sel = 0
    · exact h0 ▸ exec_checksumValid_tx s
    · have hreserved : 2 ≤ sel.toNat := by bv_omega
      exact exec_checksumValid_of_none (selPacket_of_none (.inl hreserved))

/-- Masking and shifting select bits as the remainder and the quotient by powers of two do (R128). -/
theorem intToThreeBytes_toNat (v : Nat) :
    (intToThreeBytes v).1.toNat = v / 65536 % 256 ∧ (intToThreeBytes v).2.1.toNat = v / 256 % 256 ∧
      (intToThreeBytes v).2.2.toNat = v % 256 := by
  have hmask (n : Nat) : (BitVec.ofNat 8 (n &&& 0xFF)).toNat = n % 256 := by
    rw [BitVec.toNat_ofNat, Nat.and_two_pow_sub_one_eq_mod n 8]
    omega
  exact ⟨by rw [intToThreeBytes, hmask, Nat.shiftRight_eq_div_pow],
    by rw [intToThreeBytes, hmask, Nat.shiftRight_eq_div_pow], hmask v⟩

/-- Settles O18: the decoder's value is the big-endian one, and each byte of the result is a remainder of a quotient. -/
theorem intToThreeBytesSplits : Obligations.IntToThreeBytesSplits :=
  ⟨decodeCommand_intTo3Bytes, fun _ v =>
    ⟨fun hb => ⟨_, _, _, exec_intTo3Bytes_of_idle v hb, intToThreeBytes_toNat v⟩,
      fun hb => exec_intTo3Bytes_of_busy v hb⟩⟩

/-! ## The diagnostic record -/

theorem chkStatus_txPacket (s : State) : chkStatus s.txPacket = .unknown := rfl

theorem chkStatus_rxPacket (s : State) :
    chkStatus s.rxPacket = if (encodePacket s.rxPacket).getLast? = some s.rx.chk then .ok else .failed := by
  rw [chkStatus_of_received rfl, encodePacket_getLast?]
  simp only [Option.some_inj, eq_comm]

/-- The checksum status of the selected packet: unknown for the TX packet alone, and else what the test of the received
checksum gives (R131). -/
theorem chkStatus_of_selected {s : State} {p : Packet} {sel : Byte}
    (h : (sel = 0 ∧ p = s.txPacket) ∨ (sel = 1 ∧ s.rx.chkPresent = true ∧ p = s.rxPacket)) :
    (chkStatus p = .unknown ↔ sel = 0) ∧
      (chkStatus p = .ok ↔ sel = 1 ∧ (encodePacket p).getLast? = some s.rx.chk) ∧
      (chkStatus p = .failed ↔ sel = 1 ∧ (encodePacket p).getLast? ≠ some s.rx.chk) := by
  rcases h with ⟨rfl, rfl⟩ | ⟨rfl, -, rfl⟩
  · simp [chkStatus_txPacket]
  · rw [chkStatus_rxPacket]
    split
    · next hlast => simp [hlast]
    · next hlast => simp [hlast]

theorem parsedValue_of_le {data : List Byte} (h : data.length ≤ 3) : parsedValue data = some (bigEndian data) :=
  if_pos h

theorem parsedValue_of_lt {data : List Byte} (h : 3 < data.length) : parsedValue data = none :=
  if_neg (Nat.not_le.mpr h)

/-- Settles O19: the record is the selected packet's; its checksum status is that of the packet, and its parsed value
is the big-endian one of a payload of at most three bytes. -/
theorem describeGivesTheRecord : Obligations.DescribeGivesTheRecord := by
  refine fun s hb => ⟨fun p sel hp => ?_, fun sel hnone => exec_describe_of_none (selPacket_of_none hnone)⟩
  obtain ⟨hunknown, hok, hfailed⟩ := chkStatus_of_selected hp
  refine ⟨describePacket p, exec_describe_of_some hb (selPacket_of_selected hp), rfl, rfl, rfl, rfl, rfl, rfl, rfl,
    hunknown, hok, hfailed, ?_⟩
  have hparsed : (describePacket p).parsed = parsedValue p.data := rfl
  rw [hparsed]
  rcases p.data with _ | ⟨a, _ | ⟨b, _ | ⟨c, _ | ⟨d, rest⟩⟩⟩⟩
  · exact parsedValue_of_le (by simp)
  · exact (parsedValue_of_le (by simp)).trans (by simp [bigEndian])
  · exact (parsedValue_of_le (by simp)).trans (by simp [bigEndian])
  · exact (parsedValue_of_le (by simp)).trans (by simp [bigEndian, Nat.add_mul, Nat.mul_assoc])
  · exact parsedValue_of_lt (by simp)

end Machine

end Sys2Proof
end

section
/-! What ends a read and what does not: a timeout after SOM (R160), a timeout while SCANNING (R153), and a LEN byte that
is too small (R159). -/

namespace Sys2Proof.Machine

/-- A timeout that ends the read is a completion with no packet: of the RX packet register only RX_CNT and
RX_CHK_PRESENT are known from here on (R28, D28). -/
theorem step_ended_noPacket {s : State} {op : OpName} {more : List Arrival} (hr : s.running = some ⟨op, .read⟩)
    (hc : s.closing = 0) (h : s.inputs = []) (hs : s.rxIn = .silence :: more) (he : silenceEndsRead s = true) :
    ∃ t, step s = .next t ∧ t.rx.chkPresent = s.rx.chkPresent ∧ t.rx.cnt = s.rx.cnt ∧
      t = (({ s with running := none, sstate := .idle, rx := t.rx, draws := t.draws, rxIn := more } : State).withEvents
            [.rx .noByte]).ended op .noPacket .empty :=
  ⟨_, step_no_packet hr hc h hs he, rfl, rfl, rfl⟩

/-- A timeout that does not end the read: the next step reads again (R153). -/
theorem step_passed_timeout {s : State} {op : OpName} {more : List Arrival} (hr : s.running = some ⟨op, .read⟩)
    (hc : s.closing = 0) (h : s.inputs = []) (hs : s.rxIn = .silence :: more) (he : silenceEndsRead s = false) :
    step s = .next (({ s with rxIn := more } : State).withEvents [.rx .noByte]) := by
  refine step_task h hr ?_
  rw [taskStep, readStep_silence hc hs, he]
  rfl

theorem silenceEndsRead_of_not_scanning {s : State} (h : s.rstate ≠ .scanning) : silenceEndsRead s = true := by
  simp [silenceEndsRead, h]

theorem silenceEndsRead_of_scanning {s : State} (h : s.rstate = .scanning) :
    silenceEndsRead s = s.abortOnTimeout := by
  simp [silenceEndsRead, h]

/-- While a read waits for a byte the RX packet register holds no packet (R28, R151). -/
theorem State.Inv.chkPresent_of_reading {s : State} {op : OpName} (hi : s.Inv) (hr : s.running = some ⟨op, .read⟩) :
    s.rx.chkPresent = false := by
  obtain ⟨-, hnotDone⟩ : readingFits op s ∧ s.rstate ≠ .done := hi.task _ hr
  exact Bool.eq_false_iff.mpr (mt hi.presence.mp hnotDone)

theorem readerByte_of_header {s : State} (b : Byte) (hh : s.rstate = .header) : readerByte b s = headerByte b s := by
  simp only [readerByte, hh]

/-- The first header byte is LEN, and one below 3 sends the Reader back to SCANNING (R159). -/
theorem headerByte_of_small_len {s : State} {b : Byte} (hx : s.hidx = 0) (hb : b.toNat < 3) :
    headerByte b s = { s with rxLen := b, rstate := .scanning } := by
  have hfirst : s.hidx.toNat = 0 := congrArg BitVec.toNat hx
  simp only [headerByte, hfirst]
  exact if_pos hb

/-- Settles O38: past SCANNING a timeout ends the read, and by the invariant no packet was there while it waited. -/
theorem noByteAfterSomEndsTheRead : Obligations.NoByteAfterSomEndsTheRead := by
  intro s op more hinv hr hc hinputs hqueue hpast
  obtain ⟨t, hstep, hpresent, hcnt, hended⟩ :=
    step_ended_noPacket hr hc hinputs hqueue (silenceEndsRead_of_not_scanning hpast)
  exact ⟨t, hstep, hpresent.trans (hinv.chkPresent_of_reading hr), hcnt, hended⟩

/-- Settles O39: in SCANNING the policy bit alone decides whether a timeout ends the read. -/
theorem noByteWhileScanningFollowsThePolicy : Obligations.NoByteWhileScanningFollowsThePolicy := by
  intro s op more hr hc hinputs hqueue hscanning
  have hpolicy := silenceEndsRead_of_scanning hscanning
  refine ⟨fun habort => ?_, fun habort => step_passed_timeout hr hc hinputs hqueue (hpolicy.trans habort)⟩
  obtain ⟨t, hstep, -, -, hended⟩ := step_ended_noPacket hr hc hinputs hqueue (hpolicy.trans habort)
  exact ⟨t, hstep, hended⟩

/-- Settles O41: the byte belongs to the header and is no noise, and the Reader's transition on it goes back to
SCANNING. -/
theorem lenBelowThreeIsRejected : Obligations.LenBelowThreeIsRejected := by
  intro s op b more hr hc hinputs hqueue hheader hfirst hsmall
  have hnext : readerByte b s = { s with rxLen := b, rstate := .scanning } :=
    (readerByte_of_header b hheader).trans (headerByte_of_small_len hfirst hsmall)
  refine step_byte hr hc hinputs hqueue (isNoise_of_not_scanning (by simp [hheader])) ?_ ?_
  · simp [hnext]
  · rw [hnext]

end Sys2Proof.Machine
end

section
/-! RELEASE_BUS (R183, R184): what ReleaseBus does in a session with arbitration and in one without, and that in an open
session with no operation running the command is admitted (R187). -/

namespace Sys2Proof

theorem decodeCommand_releaseBus : decodeCommand [0x09] = .ok (.releaseBus, []) := rfl

namespace Machine

theorem releaseBus_of_arb {s : State} (h : s.arb = true) : releaseBus s = setRts false s := if_pos h

theorem releaseBus_of_not_arb {s : State} (h : s.arb = false) : releaseBus s = s := if_neg (Bool.eq_false_iff.mp h)

theorem exec_releaseBus_of_idle {s : State} (ho : s.sess = .opened) (hb : s.busy = false) :
    exec .releaseBus s = .next (finish .releaseBus .ok .empty (releaseBus s)) := by
  have hadmitted : admitted .releaseBus s = true := by simp [admitted, ho, hb]
  rw [exec, execReleaseBus, if_pos hadmitted]

/-- Settles O29: the command is admitted and completes after ReleaseBus, which looks at ARB alone. -/
theorem releaseBusDeassertsRts : Obligations.ReleaseBusDeassertsRts := by
  refine ⟨decodeCommand_releaseBus, fun s ho hb => ⟨fun harb => ?_, fun harb => ?_⟩⟩
  · rw [exec_releaseBus_of_idle ho hb, releaseBus_of_arb harb]
    rfl
  · rw [exec_releaseBus_of_idle ho hb, releaseBus_of_not_arb harb]
    rfl

end Machine

end Sys2Proof
end

section
/-! OPEN and CLOSE (R196, R198, R200): when each is admitted, what it leaves, and that it is refused in the other state of
the session. -/

namespace Sys2Proof

theorem decodeCommand_openSession (addr ctrl timeout : Byte) :
    decodeCommand [0x00, addr, ctrl, timeout] = .ok (.openSession addr ctrl timeout, []) := rfl

theorem decodeCommand_closeSession : decodeCommand [0x01] = .ok (.closeSession, []) := rfl

namespace Machine

theorem exec_openSession_of_closed {s : State} (addr ctrl timeout : Byte) (hs : s.sess = .closed)
    (hb : s.busy = false) :
    exec (.openSession addr ctrl timeout) s =
      .next (({ s with
                localAddr := addr, ctrl := ctrl &&& 0x07, readTimeout := timeout, rts := false, sstate := .idle,
                sess := .opened } : State).withEvents [.rts false] |>.ended .openSession .ok .empty) := by
  have hadmitted : admitted .openSession s = true := by simp [admitted, hs, hb]
  rw [exec, execOpen, if_pos hadmitted]
  rfl

/-- OPEN is refused while the session is open (R197, R200). -/
theorem exec_openSession_of_opened {s : State} (addr ctrl timeout : Byte) (hs : s.sess = .opened) :
    exec (.openSession addr ctrl timeout) s = .next (s.ended .openSession .refused .empty) := by
  have hrefused : ¬ admitted .openSession s = true := by simp [admitted, hs]
  rw [exec, execOpen, if_neg hrefused]
  rfl

/-- With nothing running the CLOSE proceeds at once, after those still pending (R198, log entry 16). -/
theorem exec_closeSession_of_idle {s : State} (ho : s.sess = .opened) (hb : s.busy = false) :
    exec .closeSession s = .next (proceedClose (s.closing + 1) s) := by
  have hadmitted : admitted .closeSession s = true := by simp [admitted, ho]
  rw [exec, execClose, if_pos hadmitted, hb]
  rfl

/-- CLOSE is refused while the session is closed (R200). -/
theorem exec_closeSession_of_closed {s : State} (hs : s.sess = .closed) :
    exec .closeSession s = .next (s.ended .closeSession .refused .empty) := by
  have hrefused : ¬ admitted .closeSession s = true := by simp [admitted, hs]
  rw [exec, execClose, if_neg hrefused]
  rfl

/-- A single CLOSE with none pending runs the body of R198 once, and leaves no CLOSE pending. -/
theorem proceedClose_one {s : State} (hc : s.closing = 0) :
    proceedClose 1 s =
      (({ s with rts := false, sstate := .idle, sess := .closed, rxIn := [] } : State).withEvents [.rts false]
        |>.ended .closeSession .ok .empty) := by
  have hsame : ({ s with closing := 0 } : State) = s := by rw [← hc]
  rw [proceedClose, hsame]
  rfl

/-- Settles O21: the session state alone decides, with no operation running, whether OPEN is admitted. -/
theorem openStartsTheSession : Obligations.OpenStartsTheSession :=
  ⟨decodeCommand_openSession, fun _ addr ctrl timeout =>
    ⟨exec_openSession_of_closed addr ctrl timeout, exec_openSession_of_opened addr ctrl timeout⟩⟩

/-- Settles O22: in a quiet open session exactly one CLOSE proceeds. -/
theorem closeEndsTheSession : Obligations.CloseEndsTheSession := by
  refine ⟨decodeCommand_closeSession, fun s => ⟨fun ho hquiet => ?_, exec_closeSession_of_closed⟩⟩
  obtain ⟨hr, hc⟩ := hquiet
  have hone : proceedClose (s.closing + 1) s = proceedClose 1 s := by rw [hc]
  rw [exec_closeSession_of_idle ho (not_busy_of_none hr), hone, proceedClose_one hc]

end Machine

end Sys2Proof
end

section
/-! The configuration (R197): an operation but OPEN, an interaction of the engine and a CLOSE that proceeds all leave
LOCAL_ADDR, CTRL and READ_TIMEOUT as they are, so a step writes them only where it runs OPEN or the reset input. -/

namespace Sys2Proof.Machine

/-- What OPEN writes: LOCAL_ADDR, CTRL and READ_TIMEOUT (R197). -/
def State.configuration (s : State) : Byte × Byte × Byte := (s.localAddr, s.ctrl, s.readTimeout)

theorem configuration_eq_iff {s t : State} :
    t.configuration = s.configuration ↔
      t.localAddr = s.localAddr ∧ t.ctrl = s.ctrl ∧ t.readTimeout = s.readTimeout := by
  simp only [State.configuration, Prod.mk.injEq]

theorem Kept.configuration {s t : State} (h : Kept s t) : t.configuration = s.configuration :=
  configuration_eq_iff.mpr ⟨h.localAddr, h.ctrl, h.readTimeout⟩

theorem proceedClose_configuration (n : Nat) (s : State) :
    (proceedClose n s).configuration = s.configuration := by
  rw [proceedClose_state]
  rfl

theorem beginSend_configuration (op : OpName) (s : State) :
    (beginSend op s).configuration = s.configuration := by
  unfold beginSend
  simp only
  split
  · rfl
  · exact (kept_afterTakeBus op _).configuration

theorem engineStep_configuration (s : State) : (engineStep s).configuration = s.configuration := by
  unfold engineStep
  split
  · exact (kept_taskStep _ s).configuration
  · split
    · exact proceedClose_configuration _ s
    · rfl

/-- Of the presented operations only OPEN, in a closed session, writes the configuration. -/
theorem ExecCase.configuration {i : Instr} {s t : State} (h : ExecCase i s t) :
    t.configuration = s.configuration ∨
      (s.sess = .closed ∧ ∃ addr ctrl timeout, i = .openSession addr ctrl timeout) := by
  cases h with
  | opened addr ctrl timeout hi hs => exact .inr ⟨hs, addr, ctrl, timeout, hi⟩
  | closed => exact .inl (proceedClose_configuration _ s)
  | released => exact .inl (kept_releaseBus s).configuration
  | sendStarted _ _ _ p => exact .inl (beginSend_configuration _ (loadTx p s))
  | sendReceiveStarted _ _ _ p => exact .inl (beginSend_configuration _ (loadTx p s))
  | refused | finished | built | closePending | readStarted | receiveStarted | takeStarted | frameArrived =>
    exact .inl rfl

theorem fetch_configuration (s : State) : (fetch s).2.configuration = s.configuration := by
  rw [fetch_state]
  rfl

theorem fetch_sess (s : State) : (fetch s).2.sess = s.sess := by
  rw [fetch_state]

/-- A step keeps the configuration, or it runs OPEN in a closed session, or it is the reset input. -/
theorem step_configuration {s t : State} (h : step s = .next t) :
    t.configuration = s.configuration ∨
      (s.sess = .closed ∧ ∃ addr ctrl timeout, (fetch s).1 = .operation (.openSession addr ctrl timeout)) ∨
      (fetch s).1 = .resetInput := by
  have hconf := fetch_configuration s
  have hsess := fetch_sess s
  rcases step_cases h with ⟨i, s', hf, hexec⟩ | ⟨s', hf, rfl⟩ | ⟨a, s', hf, rfl⟩ | ⟨s', hf, -⟩ | ⟨s', hf, rfl⟩ <;>
    rw [hf] at hconf hsess ⊢
  · rcases (exec_cases hexec).configuration with hkept | ⟨hclosed, addr, ctrl, timeout, rfl⟩
    · exact .inl (hkept.trans hconf)
    · exact .inr (.inl ⟨hsess.symm.trans hclosed, addr, ctrl, timeout, rfl⟩)
  · exact .inl hconf
  · exact .inl hconf
  · exact .inr (.inr rfl)
  · exact .inl ((engineStep_configuration s').trans hconf)

/-- Settles O50: OPEN is refused while the session is open, and a step keeps the configuration but for OPEN and
reset. -/
theorem onlyOpenWritesTheConfiguration : Obligations.OnlyOpenWritesTheConfiguration :=
  ⟨fun _ addr ctrl timeout => exec_openSession_of_opened addr ctrl timeout, fun _ _ h =>
    (step_configuration h).imp_left configuration_eq_iff.mp⟩

end Sys2Proof.Machine
end

section
/-! A read of the sequencer that ends with no packet (R206, R209): the completion of any such read, seen in the echo step
and in the response loop. -/

namespace Sys2Proof.Machine

theorem silenceEndsRead_iff {s : State} :
    silenceEndsRead s = true ↔ s.abortOnTimeout = true ∨ s.rstate ≠ .scanning := by
  simp [silenceEndsRead, or_comm]

/-- In the response loop the bus has been released (R204, R209). -/
theorem State.Inv.rts_of_responseRead {s : State} {op : OpName} (hi : s.Inv) (hr : s.running = some ⟨op, .read⟩)
    (hq : s.sstate = .resp) : s.rts = false := by
  obtain ⟨hfits, -⟩ : readingFits op s ∧ s.rstate ≠ .done := hi.task _ hr
  rcases hfits with ⟨-, hidle⟩ | ⟨-, ⟨hecho, -⟩ | ⟨-, hrts⟩⟩
  · simp [hq] at hidle
  · simp [hq] at hecho
  · exact hrts

/-- Settles O43: the completion with no packet makes no call of ReleaseBus. -/
theorem echoTimeoutKeepsTheBus : Obligations.EchoTimeoutKeepsTheBus := by
  intro s op more hr _ hends hc hinputs hqueue
  obtain ⟨t, hstep, -, -, hended⟩ := step_ended_noPacket hr hc hinputs hqueue (silenceEndsRead_iff.mpr hends)
  exact ⟨t, hstep, (congrArg State.rts hended :), hended⟩

/-- Settles O44: the same completion; that RTS is 0 and no packet is there is the invariant's, from before the step. -/
theorem responseTimeoutIsNoResponse : Obligations.ResponseTimeoutIsNoResponse := by
  intro s op more hinv hr hresp hends hc hinputs hqueue
  obtain ⟨t, hstep, hpresent, -, hended⟩ :=
    step_ended_noPacket hr hc hinputs hqueue (silenceEndsRead_iff.mpr hends)
  have hrts : t.rts = s.rts := (congrArg State.rts hended :)
  exact ⟨t, hstep, congrArg State.lastSt hended, congrArg State.result hended,
    hrts.trans (hinv.rts_of_responseRead hr hresp), congrArg State.sstate hended, congrArg State.running hended,
    hpresent.trans (hinv.chkPresent_of_reading hr)⟩

end Sys2Proof.Machine
end

section
/-! A refused construction (R232): BUILD, SEND and SEND_RECEIVE construct their packet first, and one bad operand or a
payload too long is enough to refuse it. -/

namespace Sys2Proof.Machine

/-- A further header operand does not make up for a bad one. -/
theorem not_goodPacket_cons {header data : List Int} (src : Int) (h : ¬ goodPacket header data) :
    ¬ goodPacket (src :: header) data :=
  mt (fun ⟨hrange, hlength⟩ => ⟨fun x hx => hrange x (List.mem_cons_of_mem src hx), hlength⟩) h

theorem exec_build_of_malformed {s : State} {src rcv cmd : Int} {data : List Int} (hb : s.busy = false)
    (h : ¬ goodPacket [src, rcv, cmd] data) :
    exec (.build src rcv cmd data) s = .next (s.ended .build .malformed .empty) := by
  rw [exec, execBuild, codecStep_of_idle _ (by simp) hb, construct_none h]
  rfl

/-- SEND and SEND_RECEIVE construct before they touch the line or the TX packet register (R201, R240). -/
theorem execSendLike_of_malformed {op : OpName} {s : State} {dst cmd : Int} {data : List Int}
    (hop : op = .send ∨ op = .sendReceive) (ho : s.sess = .opened) (hb : s.busy = false)
    (h : ¬ goodPacket [(s.localAddr.toNat : Int), dst, cmd] data) :
    execSendLike op dst cmd data s = .next (s.ended op .malformed .empty) := by
  have hadmitted : admitted op s = true := by
    rcases hop with rfl | rfl <;> simp only [admitted, ho, hb, decide_true, Bool.not_false, Bool.and_self]
  rw [execSendLike, if_pos hadmitted, construct_none h]
  rfl

/-- Settles O32: whatever the source address, the operands construct no packet. -/
theorem malformedPacketTouchesNothing : Obligations.MalformedPacketTouchesNothing := by
  intro s dst cmd data hb hbad
  refine ⟨fun ho => ⟨?_, ?_⟩, fun src => exec_build_of_malformed hb (not_goodPacket_cons src hbad)⟩
  · exact execSendLike_of_malformed (.inl rfl) ho hb (not_goodPacket_cons _ hbad)
  · exact execSendLike_of_malformed (.inr rfl) ho hb (not_goodPacket_cons _ hbad)

end Sys2Proof.Machine
end

section
/-! The endless scan (R234): with ABORT_ON_TIMEOUT = 0 each timeout and each byte that is no SOM leads back to the same
wait, so a run through any number of them is an induction over the arrivals. -/

namespace Sys2Proof.Machine

/-- An operation waits for a start byte, no timeout ends its read, and nothing else is presented (R153, R234). -/
structure State.WaitsForSom (s : State) (op : OpName) : Prop where
  reading : s.running = some ⟨op, .read⟩
  notClosing : s.closing = 0
  noInputs : s.inputs = []
  scanning : s.rstate = .scanning
  patient : s.abortOnTimeout = false

/-- The events of what the Reader passes over while SCANNING (R152, R153). -/
def passedEvents (debug : Bool) : Arrival → List Event
  | .silence => [.rx .noByte]
  | .byte b => if debug then [.rx (.byte b), .dbg (.noise b)] else [.rx (.byte b)]

theorem passedEvents_length_pos (debug : Bool) (a : Arrival) : 1 ≤ (passedEvents debug a).length := by
  cases a with
  | silence => exact le_refl 1
  | byte b => cases debug <;> simp [passedEvents]

theorem length_le_passedEvents_length (debug : Bool) (arrivals : List Arrival) :
    arrivals.length ≤ (arrivals.flatMap (passedEvents debug)).length := by
  induction arrivals with
  | nil => exact le_refl 0
  | cons a rest ih =>
    have hone := passedEvents_length_pos debug a
    simp only [List.flatMap_cons, List.length_append, List.length_cons]
    omega

theorem State.WaitsForSom.after {s : State} {op : OpName} (h : s.WaitsForSom op) (queue : List Arrival)
    (events : List Event) : (({ s with rxIn := queue } : State).withEvents events).WaitsForSom op :=
  ⟨h.reading, h.notClosing, h.noInputs, h.scanning, h.patient⟩

/-- A dropped byte: with DEBUG = 1 its DBG_NOISE record is a step of its own (R152). -/
theorem runs_dropped_byte {s : State} {op : OpName} {b : Byte} {more : List Arrival} (hw : s.WaitsForSom op)
    (hb : b ≠ Config.som) (hs : s.rxIn = .byte b :: more) :
    Runs (passedEvents s.debug (.byte b)).length s
      (({ s with rxIn := more } : State).withEvents (passedEvents s.debug (.byte b))) := by
  have hnoise : isNoise b s = true := by simp [isNoise, hw.scanning, hb]
  have hread := step_noise hw.reading hw.notClosing hw.noInputs hs hnoise
  cases hd : s.debug with
  | false =>
    rw [hd] at hread
    exact runs_one hread
  | true =>
    rw [hd] at hread
    refine runs_succ hread (runs_one (step_task (t := ⟨op, .debugNoise b⟩) hw.noInputs rfl ?_))
    simp [taskStep, debugNoiseStep, goto, emit, State.withEvents, passedEvents, hw.reading]

/-- One arrival that is no SOM is passed over. -/
theorem runs_passed {s : State} {op : OpName} {a : Arrival} {more : List Arrival} (hw : s.WaitsForSom op)
    (ha : a ≠ .byte Config.som) (hs : s.rxIn = a :: more) :
    Runs (passedEvents s.debug a).length s
      (({ s with rxIn := more } : State).withEvents (passedEvents s.debug a)) := by
  cases a with
  | silence =>
    have hgoesOn : silenceEndsRead s = false := (silenceEndsRead_of_scanning hw.scanning).trans hw.patient
    exact runs_one (step_passed_timeout hw.reading hw.notClosing hw.noInputs hs hgoesOn)
  | byte b => exact runs_dropped_byte hw (fun hsom => ha (congrArg Arrival.byte hsom)) hs

/-- Any number of them, one after the other. -/
theorem runs_scan {s : State} {op : OpName} {arrivals more : List Arrival} (hw : s.WaitsForSom op)
    (hpass : ∀ a ∈ arrivals, a ≠ .byte Config.som) (hs : s.rxIn = arrivals ++ more) :
    Runs (arrivals.flatMap (passedEvents s.debug)).length s
      (({ s with rxIn := more } : State).withEvents (arrivals.flatMap (passedEvents s.debug))) := by
  induction arrivals generalizing s with
  | nil =>
    obtain rfl : s.rxIn = more := hs
    exact runs_cast (runs_zero s) rfl (by simp [State.withEvents])
  | cons a rest ih =>
    obtain ⟨ha, hrest⟩ := List.forall_mem_cons.mp hpass
    have hfirst := runs_passed hw ha hs
    have hothers := ih (hw.after (rest ++ more) (passedEvents s.debug a)) hrest rfl
    exact runs_cast (runs_trans hfirst hothers) List.length_append.symm
      (by simp [State.withEvents, State.debug])

/-- Settles O40: the events are those of the arrivals passed over, at least one each. -/
theorem scanningNeverGivesUp : Obligations.ScanningNeverGivesUp := by
  intro s op arrivals more hr hc hinputs hscanning hpatient hpass hqueue
  exact ⟨_, length_le_passedEvents_length s.debug arrivals,
    runs_scan ⟨hr, hc, hinputs, hscanning, hpatient⟩ hpass hqueue, rfl⟩

end Sys2Proof.Machine
end

section
/-! The round trip of the two formats (R90, R103): each piece of the decoder undoes the piece of the encoder that it
reads, and what it accepts is the encoding of what it answers. -/

namespace Sys2Proof

/-! ## Decoding what was encoded -/

theorem decodeBuild_encode {src rcv cmd : Int} {data : List Int} (hsrc : isByte src = true) (hrcv : isByte rcv = true)
    (hcmd : isByte cmd = true) (hdata : isData data = true) :
    decodeBuild (byteOfOperand src :: byteOfOperand rcv :: byteOfOperand cmd :: encodeData data) =
      .ok (.build src rcv cmd data, []) := by
  simp only [decodeBuild, decodeData_encodeData hdata, operandOfByte_byteOfOperand (isByte_iff.mp hsrc),
    operandOfByte_byteOfOperand (isByte_iff.mp hrcv), operandOfByte_byteOfOperand (isByte_iff.mp hcmd)]

theorem decodeSend_encode {dst cmd : Int} {data : List Int} (op : Int → Int → List Int → Instr)
    (hdst : isByte dst = true) (hcmd : isByte cmd = true) (hdata : isData data = true) :
    decodeSend op (byteOfOperand dst :: byteOfOperand cmd :: encodeData data) = .ok (op dst cmd data, []) := by
  simp only [decodeSend, decodeData_encodeData hdata, operandOfByte_byteOfOperand (isByte_iff.mp hdst),
    operandOfByte_byteOfOperand (isByte_iff.mp hcmd)]

theorem decodeInt_bytesOfValue {value : Nat} (h : value < 2 ^ 32) :
    decodeInt (bytesOfValue value) = .ok (.intTo3Bytes value, []) := by
  rw [bytesOfValue, decodeInt, valueOfBytes_bytesOfValue h]

/-- LEN says how many bytes the payload has, so it is split off where CHK begins (R92). -/
theorem decodeFrame_encode {len src rcv cmd check : Byte} {payload : List Byte}
    (h : len.toNat = Config.overhead + payload.length) :
    decodeFrame (Config.som :: len :: src :: rcv :: cmd :: (payload ++ [check])) =
      .ok (.frame len src rcv cmd payload check, []) := by
  have hcount : len.toNat - Config.overhead = payload.length := by omega
  simp only [decodeFrame, hcount, splitBytes_append, ne_eq, not_true_eq_false, if_false]

/-- Settles O11: the first byte selects the format and the operation, and the operands of a well-formed operation
decode to themselves. -/
theorem decodeOfEncode : Obligations.DecodeOfEncode := by
  intro i hwf
  cases i with
  | build src rcv cmd data =>
    simp only [Instr.wellFormed, Bool.and_eq_true] at hwf
    obtain ⟨⟨⟨hsrc, hrcv⟩, hcmd⟩, hdata⟩ := hwf
    exact decodeBuild_encode hsrc hrcv hcmd hdata
  | send dst cmd data =>
    simp only [Instr.wellFormed, Bool.and_eq_true] at hwf
    obtain ⟨⟨hdst, hcmd⟩, hdata⟩ := hwf
    exact decodeSend_encode .send hdst hcmd hdata
  | sendReceive dst cmd data =>
    simp only [Instr.wellFormed, Bool.and_eq_true] at hwf
    obtain ⟨⟨hdst, hcmd⟩, hdata⟩ := hwf
    exact decodeSend_encode .sendReceive hdst hcmd hdata
  | intTo3Bytes value => exact decodeInt_bytesOfValue (of_decide_eq_true hwf)
  | frame len src rcv cmd payload check => exact decodeFrame_encode (of_decide_eq_true hwf)
  | openSession | closeSession | encode | checksumValid | describe | readPacket | takeBus | releaseBus | receive
  | reserved0D | reserved0E | reserved0F => rfl

/-! ## What decodes is an encoding -/

theorem encode_of_decodeOpen {ops rest : List Byte} {i : Instr} (h : decodeOpen ops = .ok (i, rest)) :
    0x00 :: ops = encode i ++ rest := by
  unfold decodeOpen at h
  split at h <;> cases h
  rfl

theorem encode_of_decodeBuild {ops rest : List Byte} {i : Instr} (h : decodeBuild ops = .ok (i, rest)) :
    0x02 :: ops = encode i ++ rest := by
  unfold decodeBuild at h
  split at h
  · split at h
    · next hdata =>
      cases h
      simp only [encode, byteOfOperand_operandOfByte, encodeData_of_decodeData hdata, List.cons_append]
    · cases h
  · cases h

theorem encode_of_decodeSel {op : Byte → Instr} {opc : Byte} {ops rest : List Byte} {i : Instr}
    (hop : ∀ sel, encode (op sel) = [opc, sel]) (h : decodeSel op ops = .ok (i, rest)) :
    opc :: ops = encode i ++ rest := by
  unfold decodeSel at h
  split at h <;> cases h
  rw [hop]
  rfl

theorem encode_of_decodeInt {ops rest : List Byte} {i : Instr} (h : decodeInt ops = .ok (i, rest)) :
    0x06 :: ops = encode i ++ rest := by
  unfold decodeInt at h
  split at h <;> cases h
  rw [encode, bytesOfValue_valueOfBytes]
  rfl

theorem encode_of_decodeSend {op : Int → Int → List Int → Instr} {opc : Byte} {ops rest : List Byte} {i : Instr}
    (hop : ∀ dst cmd data,
      encode (op dst cmd data) = opc :: byteOfOperand dst :: byteOfOperand cmd :: encodeData data)
    (h : decodeSend op ops = .ok (i, rest)) : opc :: ops = encode i ++ rest := by
  unfold decodeSend at h
  split at h
  · split at h
    · next hdata =>
      cases h
      simp only [hop, byteOfOperand_operandOfByte, encodeData_of_decodeData hdata, List.cons_append]
    · cases h
  · cases h

/-- Each code of the operation table is that of the operation its operands decode to (R103). -/
theorem encode_of_decodeOperands {opc : Byte} {ops rest : List Byte} {i : Instr}
    (h : decodeOperands opc.toNat ops = .ok (i, rest)) : opc :: ops = encode i ++ rest := by
  have hcode {n : Nat} (hn : opc.toNat = n) : opc = BitVec.ofNat 8 n := by
    rw [← hn, BitVec.ofNat_toNat, BitVec.setWidth_eq]
  unfold decodeOperands at h
  split at h <;> rename_i hn
  · exact hcode hn ▸ encode_of_decodeOpen h
  · cases h; rw [hcode hn]; rfl
  · exact hcode hn ▸ encode_of_decodeBuild h
  · exact hcode hn ▸ encode_of_decodeSel (fun _ => rfl) h
  · exact hcode hn ▸ encode_of_decodeSel (fun _ => rfl) h
  · exact hcode hn ▸ encode_of_decodeSel (fun _ => rfl) h
  · exact hcode hn ▸ encode_of_decodeInt h
  · cases h; rw [hcode hn]; rfl
  · cases h; rw [hcode hn]; rfl
  · cases h; rw [hcode hn]; rfl
  · exact hcode hn ▸ encode_of_decodeSend (fun _ _ _ => rfl) h
  · cases h; rw [hcode hn]; rfl
  · exact hcode hn ▸ encode_of_decodeSend (fun _ _ _ => rfl) h
  · cases h; rw [hcode hn]; rfl
  · cases h; rw [hcode hn]; rfl
  · cases h; rw [hcode hn]; rfl
  · cases h

theorem encode_of_decodeCommand {bytes rest : List Byte} {i : Instr} (h : decodeCommand bytes = .ok (i, rest)) :
    bytes = encode i ++ rest := by
  cases bytes with
  | nil => cases h
  | cons opc ops => exact encode_of_decodeOperands h

/-- The payload that is split off, and the CHK after it, are the bytes that were there (R90). -/
theorem encode_of_decodeFrame {bytes rest : List Byte} {i : Instr} (h : decodeFrame bytes = .ok (i, rest)) :
    bytes = encode i ++ rest := by
  unfold decodeFrame at h
  split at h
  · split at h
    · cases h
    · next hsom =>
      split at h
      · next hsplit =>
        cases h
        obtain ⟨rfl, -⟩ := splitBytes_eq_some hsplit
        simp only [encode, not_not.mp hsom, List.cons_append, List.append_assoc, List.nil_append]
      · cases h
  · cases h
  · cases h

/-- Settles O12: neither format drops a byte of what it accepts. -/
theorem encodeOfDecode : Obligations.EncodeOfDecode := by
  intro bytes rest i h
  cases bytes with
  | nil => cases h
  | cons b bytes =>
    unfold decode at h
    simp only at h
    split at h
    · exact encode_of_decodeFrame h
    · exact encode_of_decodeCommand h

/-- Settles O13: the decoder evaluated on each word. -/
theorem specWordsDecode : Obligations.SpecWordsDecode :=
  ⟨rfl, rfl, rfl, rfl, rfl, rfl, rfl⟩

end Sys2Proof
end

section
/-! The invariant (O3, O4): it holds at reset, and each presented operation, each interaction of a running one, and each
CLOSE that proceeds keeps it. -/

namespace Sys2Proof.Machine

/-- Settles O3: the buffers have their size, nothing runs and RTS is 0. -/
theorem resetHasTheInvariant : Obligations.ResetHasTheInvariant :=
  ⟨rfl, zeroBuffer_length, Nat.zero_le _, zeroBuffer_length, ⟨rfl, rfl⟩,
    iff_of_false (by simp [State.reset]) (by simp [State.reset]), (fun h => by cases h),
    fun h => absurd rfl h, fun h => absurd rfl h, fun _ => rfl, fun _ => rfl, fun _ => rfl,
    (fun _ h => by cases h)⟩

theorem inv_resetBlock (s : State) : (resetBlock s).Inv :=
  State.Inv.congr_outside resetHasTheInvariant _ _ s.rxIn s.ctsIn s.draws s.inputs s.history

/-! ## Presented operations -/

/-- An accepted operation, or a CLOSE that waits, empties RESULT (log entry 13). -/
theorem inv_emptyResult {s : State} (hi : s.Inv) : State.Inv { s with result := .empty } :=
  ⟨hi.1, hi.2, hi.3, hi.4, hi.5, hi.6, hi.7, hi.8, hi.9, hi.10, fun _ => rfl, fun _ => rfl, hi.13⟩

theorem inv_closePending {s : State} (hi : s.Inv) (ho : s.sess = .opened) (n : Nat) :
    State.Inv { s with closing := n, result := .empty } :=
  ⟨hi.1, hi.2, hi.3, hi.4, hi.5, hi.6, hi.7, hi.8, fun _ => ho, hi.10, fun _ => rfl, fun _ => rfl, hi.13⟩

theorem ctrlOfOperand_reserved (ctrl : Byte) : ctrlOfOperand ctrl &&& 0xF8 = 0 := by
  have hmasks : (0x07 : Byte) &&& 0xF8 = 0 := rfl
  rw [ctrlOfOperand, BitVec.and_assoc, hmasks]
  exact BitVec.and_zero

/-- OPEN leaves RTS 0 and the session open (R196). -/
theorem inv_opened {s : State} (hi : s.Inv) (hn : s.running = none) (addr ctrl timeout : Byte) :
    State.Inv
      { setRts false { s with localAddr := addr, ctrl := ctrlOfOperand ctrl, readTimeout := timeout } with
        sstate := .idle, sess := .opened } :=
  ⟨ctrlOfOperand_reserved ctrl, hi.2, hi.3, hi.4, hi.5, hi.6, fun h => (by cases h), fun h => absurd hn h, fun _ => rfl,
    fun _ => rfl, fun h => absurd hn h, hi.12, fun t ht => absurd ht (by simp [hn])⟩

theorem releaseBus_running (s : State) : (releaseBus s).running = s.running := by
  unfold releaseBus
  split <;> rfl

/-- Receive starts in the echo step of an arbitrated session, or in the response loop of one whose RTS cannot be
asserted (R204). -/
theorem inv_beginReceive {s : State} (hi : State.Inv { s with running := none, sstate := .idle })
    (ho : s.sess = .opened) (he : s.result = .empty) {op : OpName} (hop : op = .receive ∨ op = .sendReceive) :
    (goto op .read (beginReceive s)).Inv := by
  refine inv_goto (s := beginReceive s) (inv_startRead hi) ho he op .read ⟨.inr ⟨hop, ?_⟩, by simp [beginReceive]⟩
  cases ha : s.arb with
  | true => exact .inl ⟨if_pos ha, ha⟩
  | false => exact .inr ⟨if_neg (by simp [ha]), hi.rts_of_not_arb ha⟩

theorem ExecCase.inv {i : Instr} {s t : State} (h : ExecCase i s t) (hi : s.Inv) : t.Inv := by
  cases h with
  | refused op => exact inv_refuse hi op
  | finished op st res hq => exact inv_finish hi op st res (.inl hq)
  | built _ _ _ _ p _ hq hp => exact inv_finish (inv_loadTx hi p (construct_length hp)) _ _ _ (.inl hq)
  | opened addr ctrl timeout _ _ hq => exact inv_finish (inv_opened hi hq addr ctrl timeout) _ _ _ (.inl hq)
  | closePending _ hs => exact inv_closePending hi hs _
  | closed _ _ hq => exact inv_proceedClose hi hq
  | readStarted _ hs hq =>
    exact inv_goto (inv_startRead (inv_halted (inv_emptyResult hi))) hs rfl .readPacket .read
      ⟨.inl ⟨rfl, hi.idleSequencer hq⟩, by simp⟩
  | receiveStarted _ hs => exact inv_beginReceive (inv_halted (inv_emptyResult hi)) hs rfl (.inl rfl)
  | takeStarted _ hs hq ha => exact inv_accept hi hs .takeBus .sample ⟨ha, .inl ⟨rfl, hi.idleSequencer hq⟩⟩
  | released _ _ hq =>
    exact inv_finish (inv_releaseBus hi hq) _ _ _ (.inl ((releaseBus_running s).trans hq))
  | sendStarted _ _ _ p _ hs _ hp => exact inv_beginSend (inv_loadTx hi p (construct_length hp)) hs _ (.inl rfl)
  | sendReceiveStarted _ _ _ p _ hs _ hp => exact inv_beginSend (inv_loadTx hi p (construct_length hp)) hs _ (.inr rfl)
  | frameArrived => exact inv_deliver hi _

/-! ## The interactions of a running operation -/

section
variable {s : State} {op : OpName}

theorem State.Inv.opened_of_running {t : Task} (hi : s.Inv) (hr : s.running = some t) : s.sess = .opened :=
  hi.busyOpen (by simp [hr])

theorem State.Inv.empty_of_running {t : Task} (hi : s.Inv) (hr : s.running = some t) : s.result = .empty :=
  hi.busyEmpty (by simp [hr])

theorem inv_sampleStep (hi : s.Inv) (hr : s.running = some ⟨op, .sample⟩) : (sampleStep op s).Inv := by
  have ho : s.sess = .opened := hi.opened_of_running hr
  have he : s.result = .empty := hi.empty_of_running hr
  have hfits : taskFits ⟨op, .sample⟩ s := hi.task _ hr
  have hsampled (e : Event) : (emit e (takeCts s).2).Inv := inv_emit (inv_takeCts hi) e
  unfold sampleStep
  split
  · exact inv_complete (inv_halted (inv_emit hi _)) _ _ _
  · simp only
    split
    · exact hsampled _
    · refine inv_goto (inv_halted (hsampled _)) ?_ ?_ op .assertRts ?_ <;> rw [takeCts_state]
      exacts [ho, he, hfits]

theorem inv_assertStep (hi : s.Inv) (hr : s.running = some ⟨op, .assertRts⟩) : (assertStep op s).Inv := by
  have ho : s.sess = .opened := hi.opened_of_running hr
  have he : s.result = .empty := hi.empty_of_running hr
  obtain ⟨harb, hplace⟩ : s.arb = true ∧ ((op = .takeBus ∧ s.sstate = .idle) ∨ (sendLike op ∧ s.sstate = .take)) :=
    hi.task _ hr
  have hheld : State.Inv { setRts true s with running := none, sstate := .idle } :=
    inv_setRts (inv_halted hi) rfl true fun _ => ⟨ho, harb⟩
  unfold assertStep afterTakeBus
  split
  · exact inv_complete hheld _ _ _
  · next hop =>
    have hsends : sendLike op := (hplace.resolve_left fun h => hop h.1).1
    split
    · next hd => exact inv_goto (s := { setRts true s with sstate := .write }) hheld ho he _ .debugTx ⟨hd, hsends, rfl⟩
    · exact inv_goto (s := { setRts true s with sstate := .write }) hheld ho he _ .write ⟨hsends, rfl⟩

theorem inv_debugTxStep (hi : s.Inv) (hr : s.running = some ⟨op, .debugTx⟩) : (debugTxStep op s).Inv := by
  obtain ⟨-, hsends, hwrite⟩ : s.debug = true ∧ sendLike op ∧ s.sstate = .write := hi.task _ hr
  exact inv_goto (inv_halted (inv_emit hi _)) (hi.opened_of_running hr) (hi.empty_of_running hr) op .write
    ⟨hsends, hwrite⟩

theorem inv_writeStep (hi : s.Inv) (hr : s.running = some ⟨op, .write⟩) : (writeStep op s).Inv := by
  have hwritten (e : Event) : State.Inv { emit e s with running := none, sstate := .idle } := inv_halted (inv_emit hi e)
  unfold writeStep
  simp only
  split
  · next hop => exact inv_beginReceive (hwritten _) (hi.opened_of_running hr) (hi.empty_of_running hr) (.inr hop)
  · exact inv_complete (hwritten _) _ _ _

theorem readingFits_readerByte (b : Byte) (h : readingFits op s) : readingFits op (readerByte b s) := by
  rw [readerByte_state]
  exact h

/-- A byte in a read keeps what the invariant says of the registers. -/
theorem inv_readerByte (hi : s.Inv) (hd : s.rstate ≠ .done) (b : Byte) :
    State.Inv { readerByte b s with running := none, sstate := .idle } := by
  obtain ⟨hbuffer, hfits, hpresence⟩ := readerByte_fits b hi hd
  have hhalted := inv_halted hi
  rw [readerByte_state] at hbuffer hfits hpresence ⊢
  exact ⟨hi.1, hi.2, hi.3, hbuffer, hfits, hpresence, hhalted.7, hhalted.8, hhalted.9, hhalted.10, hhalted.11,
    hhalted.12, fun t ht => by cases ht⟩

/-- The operation goes on from a byte that is no noise: to another read, or past the end of this one (R163, R158). -/
theorem inv_afterByte (hi : s.Inv) (hr : s.running = some ⟨op, .read⟩) (b : Byte) :
    State.Inv
      (if (readerByte b s).rstate = .done then
        (if (readerByte b s).debug then goto op .debugRx (readerByte b s) else packetRead op (readerByte b s))
      else readerByte b s) := by
  obtain ⟨hfits, hnotDone⟩ : readingFits op s ∧ s.rstate ≠ .done := hi.task _ hr
  have hinv := inv_readerByte hi hnotDone b
  have hreads := readingFits_readerByte b hfits
  have ho : (readerByte b s).sess = .opened := by rw [readerByte_state]; exact hi.opened_of_running hr
  have he : (readerByte b s).result = .empty := by rw [readerByte_state]; exact hi.empty_of_running hr
  split
  · next hdone =>
    split
    · next hdebug => exact inv_goto hinv ho he op .debugRx ⟨hdebug, hreads, hdone⟩
    · exact inv_packetRead hinv ho he op hreads hdone
  · next hmore =>
    have hsame : goto op .read (readerByte b s) = readerByte b s := by
      rw [readerByte_state, goto, ← hr]
    exact hsame ▸ inv_goto hinv ho he op .read ⟨hreads, hmore⟩

theorem inv_readStep (hi : s.Inv) (hr : s.running = some ⟨op, .read⟩) : (readStep op s).Inv := by
  have hanswered (e : Event) : (emit e (takeArrival s).2).Inv := inv_emit (inv_takeArrival hi) e
  have hr' (e : Event) : (emit e (takeArrival s).2).running = some ⟨op, .read⟩ := by rw [takeArrival_state]; exact hr
  unfold readStep
  split
  · exact inv_complete (inv_halted (inv_emit hi _)) _ _ _
  · generalize takeArrival s = answer at hanswered hr' ⊢
    obtain ⟨a, s1⟩ := answer
    cases a with
    | silence =>
      simp only
      split
      · exact inv_complete (inv_halted (inv_forgetRx (hanswered _))) _ _ _
      · exact hanswered _
    | byte b =>
      have hi2 := hanswered (.rx (.byte b))
      have hr2 := hr' (.rx (.byte b))
      simp only
      split
      · next hnoise =>
        split
        · next hdebug =>
          obtain ⟨hfits, -⟩ : readingFits op (emit (.rx (.byte b)) s1) ∧ _ := hi2.task _ hr2
          have hscanning : s1.rstate = .scanning := of_decide_eq_true (Bool.and_eq_true_iff.mp hnoise).1
          exact inv_goto (inv_halted hi2) (hi2.opened_of_running hr2) (hi2.empty_of_running hr2) op _
            ⟨hdebug, hfits, hscanning⟩
        · exact hi2
      · exact inv_afterByte hi2 hr2 b

theorem inv_debugNoiseStep {b : Byte} (hi : s.Inv) (hr : s.running = some ⟨op, .debugNoise b⟩) :
    (debugNoiseStep op b s).Inv := by
  obtain ⟨-, hfits, hscanning⟩ : s.debug = true ∧ readingFits op s ∧ s.rstate = .scanning := hi.task _ hr
  exact inv_goto (inv_halted (inv_emit hi _)) (hi.opened_of_running hr) (hi.empty_of_running hr) op .read
    ⟨hfits, by simp [hscanning]⟩

theorem inv_debugRxStep (hi : s.Inv) (hr : s.running = some ⟨op, .debugRx⟩) : (debugRxStep op s).Inv := by
  obtain ⟨-, hfits, hdone⟩ : s.debug = true ∧ readingFits op s ∧ s.rstate = .done := hi.task _ hr
  exact inv_packetRead (inv_halted (inv_emit hi _)) (hi.opened_of_running hr) (hi.empty_of_running hr) op hfits
    hdone

/-- Another read of the response loop, which is entered with RTS 0 (R205, R207). -/
theorem inv_readAgain (hi : State.Inv { s with running := none, sstate := .idle }) (ho : s.sess = .opened)
    (he : s.result = .empty) (hop : op = .receive ∨ op = .sendReceive) (hresp : s.sstate = .resp)
    (hrts : s.rts = false) : (readAgain op s).Inv :=
  inv_goto (inv_startRead hi) ho he op .read ⟨.inr ⟨hop, .inr ⟨hresp, hrts⟩⟩, by simp⟩

theorem inv_releaseStep (hi : s.Inv) (hr : s.running = some ⟨op, .release⟩) : (releaseStep op s).Inv := by
  obtain ⟨hop, -, harb, -⟩ :
    (op = .receive ∨ op = .sendReceive) ∧ s.sstate = .echo ∧ s.arb = true ∧ s.rstate = .done := hi.task _ hr
  rw [releaseStep, releaseBus_of_arb harb]
  exact inv_readAgain (inv_setRts (inv_halted hi) rfl false (by simp)) (hi.opened_of_running hr)
    (hi.empty_of_running hr) hop rfl rfl

theorem inv_debugIgnoredStep (hi : s.Inv) (hr : s.running = some ⟨op, .debugIgnored⟩) :
    (debugIgnoredStep op s).Inv := by
  obtain ⟨-, hop, hresp, hrts, -⟩ :
    s.debug = true ∧ (op = .receive ∨ op = .sendReceive) ∧ s.sstate = .resp ∧ s.rts = false ∧ s.rstate = .done :=
    hi.task _ hr
  exact inv_readAgain (inv_halted (inv_emit hi _)) (hi.opened_of_running hr) (hi.empty_of_running hr) hop hresp
    hrts

end

theorem inv_taskStep {s : State} {t : Task} (hi : s.Inv) (hr : s.running = some t) : (taskStep t s).Inv := by
  obtain ⟨op, point⟩ := t
  cases point with
  | sample => exact inv_sampleStep hi hr
  | assertRts => exact inv_assertStep hi hr
  | debugTx => exact inv_debugTxStep hi hr
  | write => exact inv_writeStep hi hr
  | read => exact inv_readStep hi hr
  | debugNoise b => exact inv_debugNoiseStep hi hr
  | debugRx => exact inv_debugRxStep hi hr
  | release => exact inv_releaseStep hi hr
  | debugIgnored => exact inv_debugIgnoredStep hi hr

theorem inv_engineStep {s : State} (hi : s.Inv) : (engineStep s).Inv := by
  unfold engineStep
  split
  · next hr => exact inv_taskStep hi hr
  · next hr =>
    split
    · exact inv_proceedClose hi hr
    · exact hi

/-- Settles O4: what is fetched keeps the invariant of the state it finds, whichever it is. -/
theorem everyStepKeepsTheInvariant : Obligations.EveryStepKeepsTheInvariant := by
  intro s t hi hstep
  have hfetched := inv_fetch hi
  rcases step_cases hstep with ⟨i, s', hf, hexec⟩ | ⟨s', hf, rfl⟩ | ⟨a, s', hf, rfl⟩ | ⟨s', hf, rfl⟩ | ⟨s', hf, rfl⟩ <;>
    rw [hf] at hfetched
  · exact (exec_cases hexec).inv hfetched
  · exact inv_refuse hfetched _
  · exact inv_deliver hfetched a
  · exact inv_resetBlock s'
  · exact inv_engineStep hfetched

end Sys2Proof.Machine
end

section
/-! Resynchronisation (R166): the bytes before the start byte are dropped one by one, and then one READ_PACKET does with
the frame what it does with a frame that comes first. -/

namespace Sys2Proof.Machine

/-- A byte that is no SOM is dropped whatever the policy on timeouts, with DEBUG = 1 recorded in a step of its own
(R152). -/
theorem runs_noise_byte {s : State} {op : OpName} {b : Byte} {more : List Arrival}
    (hr : s.running = some ⟨op, .read⟩) (hc : s.closing = 0) (h : s.inputs = []) (hsc : s.rstate = .scanning)
    (hb : b ≠ Config.som) (hs : s.rxIn = .byte b :: more) :
    Runs (if s.debug then 2 else 1) s
      (({ s with rxIn := more } : State).withEvents (passedEvents s.debug (.byte b))) := by
  have hread := step_noise hr hc h hs (by simp [isNoise, hsc, hb])
  cases hd : s.debug with
  | false =>
    rw [hd] at hread
    exact runs_one hread
  | true =>
    rw [hd] at hread
    refine runs_succ hread (runs_one (step_task (t := ⟨op, .debugNoise b⟩) h rfl ?_))
    simp [taskStep, debugNoiseStep, goto, emit, State.withEvents, passedEvents, hr]

theorem runs_noise {s : State} {op : OpName} {noise : List Byte} {more : List Arrival}
    (hr : s.running = some ⟨op, .read⟩) (hc : s.closing = 0) (h : s.inputs = []) (hsc : s.rstate = .scanning)
    (hnoise : ∀ b ∈ noise, b ≠ Config.som) (hs : s.rxIn = arriving noise ++ more) :
    Runs (noise.length * (if s.debug then 2 else 1)) s
      (({ s with rxIn := more } : State).withEvents (noise.flatMap fun b => passedEvents s.debug (.byte b))) := by
  induction noise generalizing s with
  | nil =>
    obtain rfl : s.rxIn = more := hs
    exact runs_cast (runs_zero s) (by simp) (by simp [State.withEvents])
  | cons b rest ih =>
    obtain ⟨hb, hrest⟩ := List.forall_mem_cons.mp hnoise
    have hfirst := runs_noise_byte hr hc h hsc hb hs
    have hothers := ih (s := ({ s with rxIn := arriving rest ++ more } : State).withEvents
      (passedEvents s.debug (.byte b))) hr hc h hsc hrest rfl
    refine runs_cast (runs_trans hfirst hothers) ?_ (by simp [State.withEvents, State.debug])
    rw [List.length_cons, Nat.succ_mul, Nat.add_comm]
    rfl

/-- READ_PACKET completes in the block's idle state, so that only the Reader's registers, the status, the queue and the
history differ. -/
theorem afterPacketRead_frame {s r : State} {p : Packet} {last : Byte} {more : List Arrival}
    (hidle : { r with
                result := s.result, rx := s.rx, rstate := s.rstate, hidx := s.hidx, rxIn := s.rxIn,
                history := s.history, running := none, sstate := .idle } = s) :
    afterPacketRead p last more r =
      { s with
        lastSt := .ok, result := (afterPacketRead p last more r).result, rx := (afterPacketRead p last more r).rx,
        rstate := .done, hidx := 0, rxLen := p.len, rxIn := more,
        history := (afterPacketRead p last more r).history } := by
  rw [← hidle]
  rfl

/-- Settles O36: the noise leads back to the same wait, and the frame after it is read as any frame is. -/
theorem readerResynchronises : Obligations.ReaderResynchronises := by
  intro s noise p last more hready hinv hl hnoise hqueue
  have hqueue' : s.rxIn = arriving noise ++ (arriving (wireFrame p last) ++ more) := by
    rw [hqueue, arriving, List.map_append, List.append_assoc]
    rfl
  have hdropped := runs_noise (s := startRead (accept .readPacket .read s)) rfl hready.notClosing hready.noInputs rfl
    hnoise hqueue'
  have hframe := runs_readPacket_frame (p := p) (last := last) (more := more)
    (s := ({ startRead (accept .readPacket .read s) with
      rxIn := arriving (wireFrame p last) ++ more } : State).withEvents
        (noise.flatMap fun b => passedEvents s.debug (.byte b)))
    rfl hready.notClosing hready.noInputs rfl rfl hinv.rxBuffer hl rfl
  have hrun := runs_trans hdropped hframe
  refine ⟨_, _, exec_readPacket_of_ready hready, runs_cast hrun ?_ rfl, rfl, rfl,
    rxPacket_afterFrame (queue := more) hl, rfl, ?_, rfl⟩
  · show _ * (if s.debug then 2 else 1) + (_ + 6 + (if s.debug then 1 else 0)) = _
    omega
  · refine afterPacketRead_frame (s := s) ?_
    rw [← hready.notRunning, ← hinv.idleSequencer hready.notRunning]
    rfl

end Sys2Proof.Machine
end

section
/-! RECEIVE (R204 to R208): frames read one after the other. A whole frame is read, recorded with DEBUG = 1, and then
taken as the echo, ignored, or handed over; each of the first two leads to the start of another read, so that the reads
compose. -/

namespace Sys2Proof.Machine

/-! ## One frame and its record -/

/-- An operation is at the start of a read, and nothing else is presented (R151). -/
structure State.AwaitsFrame (s : State) (op : OpName) : Prop where
  reading : s.running = some ⟨op, .read⟩
  notClosing : s.closing = 0
  noInputs : s.inputs = []
  scanning : s.rstate = .scanning
  nothingCounted : s.rx.cnt = 0
  buffer : s.rx.data.length = 252

/-- What the reads of one operation leave alone. -/
structure Listened (s t : State) : Prop extends Kept s t where
  ctsIn : t.ctsIn = s.ctsIn
  draws : t.draws = s.draws

theorem Listened.refl (s : State) : Listened s s := ⟨.refl s, rfl, rfl⟩

theorem Listened.trans {s t u : State} (h : Listened s t) (h' : Listened t u) : Listened s u :=
  ⟨h.toKept.trans h'.toKept, h'.ctsIn.trans h.ctsIn, h'.draws.trans h.draws⟩

theorem Listened.arb {s t : State} (h : Listened s t) : t.arb = s.arb := by rw [State.arb, h.ctrl, State.arb]

theorem Listened.debug {s t : State} (h : Listened s t) : t.debug = s.debug := by rw [State.debug, h.ctrl, State.debug]

/-- A whole frame has been read and, with DEBUG = 1, recorded: the RX packet register holds its packet, and `more` is
unread (R158). -/
structure FrameRead (p : Packet) (last : Byte) (more : List Arrival) (s t : State) : Prop extends Listened s t where
  sstate : t.sstate = s.sstate
  rts : t.rts = s.rts
  buffer : t.rx.data.length = 252
  rcv : t.rx.rcv = p.rcv
  packet : t.rxPacket = p.received last
  unread : t.rxIn = more
  produced : t.history = s.history ++ frameEvents s.debug p last

theorem frameRead_afterFrame {s : State} {p : Packet} {last : Byte} {more : List Arrival}
    (hbuf : s.rx.data.length = 252) (hl : p.data.length ≤ 252) :
    FrameRead p last more s
      ((afterFrame p last more s).withEvents
        (if s.debug then [.dbg (.rx (describePacket (p.received last)))] else [])) := by
  have hbuffer : (p.data ++ s.rx.data.drop p.data.length).length = 252 := by
    rw [List.length_append, List.length_drop]
    omega
  exact ⟨⟨⟨rfl, rfl, rfl, rfl, rfl, rfl, rfl, _, List.append_assoc _ _ _⟩, rfl, rfl⟩, rfl, rfl, hbuffer, rfl,
    rxPacket_afterFrame (queue := more) (s := s) hl, rfl, List.append_assoc _ _ _⟩

/-- What follows a packet does not depend on the place its record was emitted from. -/
theorem packetRead_goto (op : OpName) (p : Point) (s : State) : packetRead op (goto op p s) = packetRead op s := rfl

/-- No event is the state itself. -/
theorem withEvents_nil (s : State) : s.withEvents [] = s := by simp [State.withEvents]

/-- From the last byte of a frame to what follows the packet, the DBG_RX record between them with DEBUG = 1 (R158,
R212). -/
theorem runs_packet_record {s : State} {op : OpName} (h : s.inputs = []) :
    Runs (if s.debug then 1 else 0) (if s.debug then goto op .debugRx s else packetRead op s)
      (packetRead op (s.withEvents (if s.debug then [.dbg (.rx (describePacket s.rxPacket))] else []))) := by
  cases s.debug with
  | false => exact (withEvents_nil s).symm ▸ runs_zero _
  | true => exact runs_one (step_task (t := ⟨op, .debugRx⟩) h rfl (packetRead_goto op .debugRx (emit _ s)))

theorem frameEvents_length (debug : Bool) (p : Packet) (last : Byte) :
    (frameEvents debug p last).length = p.data.length + 6 + if debug then 1 else 0 := by
  cases debug <;> simp [frameEvents, reads, wireFrame]

/-- A whole frame and its record, up to what follows the packet: one step for each of its events. -/
theorem runs_recorded_frame {s : State} {op : OpName} {p : Packet} {last : Byte} {more : List Arrival}
    (hw : s.AwaitsFrame op) (hl : p.data.length ≤ 252) (hs : s.rxIn = arriving (wireFrame p last) ++ more) :
    ∃ t, FrameRead p last more s t ∧ Runs (frameEvents s.debug p last).length s (packetRead op t) := by
  have hframe := runs_frame hw.reading hw.notClosing hw.noInputs hw.scanning hw.nothingCounted hw.buffer hl hs
  have hrecord := runs_packet_record (s := afterFrame p last more s) (op := op) hw.noInputs
  rw [rxPacket_afterFrame hl] at hrecord
  exact ⟨_, frameRead_afterFrame hw.buffer hl,
    runs_cast (runs_trans hframe hrecord) (frameEvents_length s.debug p last).symm rfl⟩

/-! ## What follows the packet of a read of the sequencer -/

section
variable {s : State} {op : OpName}

/-- The packet of the echo step is dropped, whatever it is (R205). -/
theorem packetRead_echo (hop : op ≠ .readPacket) (he : s.sstate = .echo) : packetRead op s = goto op .release s := by
  rw [packetRead, if_neg hop, if_pos he]

/-- The first addressed packet of the response loop is the result (R208). -/
theorem packetRead_addressed (hop : op ≠ .readPacket) (hq : s.sstate = .resp) (ha : s.rx.rcv = s.localAddr) :
    packetRead op s = complete op .ok (.packet s.rxPacket) s := by
  rw [packetRead, if_neg hop, if_neg (by simp [hq]), if_pos ha]

/-- A packet for another address leads to another read, with DEBUG = 1 after its marker (R207). -/
theorem packetRead_foreign (hop : op ≠ .readPacket) (hq : s.sstate = .resp) (ha : s.rx.rcv ≠ s.localAddr) :
    packetRead op s = if s.debug then goto op .debugIgnored s else readAgain op s := by
  rw [packetRead, if_neg hop, if_neg (by simp [hq]), if_neg ha]

/-- From a packet for another address to the next read. -/
theorem runs_ignored (h : s.inputs = []) (hop : op ≠ .readPacket) (hq : s.sstate = .resp)
    (ha : s.rx.rcv ≠ s.localAddr) :
    Runs (if s.debug then 1 else 0) (packetRead op s)
      (readAgain op (s.withEvents (if s.debug then [.dbg .ignored] else []))) := by
  rw [packetRead_foreign hop hq ha]
  cases s.debug with
  | false => exact (withEvents_nil s).symm ▸ runs_zero _
  | true => exact runs_one (step_task (t := ⟨op, .debugIgnored⟩) h rfl rfl)

/-- With ARB = 1 the release after the echo deasserts RTS and starts a read of the response loop (R205). -/
theorem step_release (h : s.inputs = []) (hr : s.running = some ⟨op, .release⟩) (ha : s.arb = true) :
    step s = .next (readAgain op { setRts false s with sstate := .resp }) := by
  refine step_task h hr ?_
  rw [taskStep, releaseStep, releaseBus_of_arb ha]

end

/-! ## The echo, and the frames for other addresses -/

/-- After some frames the operation is in the response loop, the bus released, at the start of another read, with just
these events produced and the queue `more` unread. -/
structure AtNextRead (op : OpName) (more : List Arrival) (events : List Event) (s t : State) : Prop
    extends Listened s t where
  awaits : t.AwaitsFrame op
  responds : t.sstate = .resp
  released : t.rts = false
  unread : t.rxIn = more
  produced : t.history = s.history ++ events

theorem AtNextRead.trans {op : OpName} {more more' : List Arrival} {events events' : List Event} {s t u : State}
    (h : AtNextRead op more events s t) (h' : AtNextRead op more' events' t u) :
    AtNextRead op more' (events ++ events') s u :=
  ⟨h.toListened.trans h'.toListened, h'.awaits, h'.responds, h'.released, h'.unread,
    by rw [h'.produced, h.produced, List.append_assoc]⟩

/-- Another read of the response loop starts, with the events so far. -/
theorem atNextRead_readAgain {s t : State} {op : OpName} {events : List Event} (h : Listened s t) (hc : t.closing = 0)
    (hn : t.inputs = []) (hbuf : t.rx.data.length = 252) (hq : t.sstate = .resp) (hrts : t.rts = false)
    (he : t.history = s.history ++ events) : AtNextRead op t.rxIn events s (readAgain op t) :=
  ⟨⟨h.toKept.trans (kept_readAgain op t), h.ctsIn, h.draws⟩, ⟨rfl, hc, hn, rfl, rfl, hbuf⟩, hq, hrts, rfl, he⟩

/-- The echo of an arbitrated link: a whole frame, its record, and the release (R205). -/
theorem runs_echo {s : State} {op : OpName} {p : Packet} {last : Byte} {more : List Arrival} (hw : s.AwaitsFrame op)
    (hop : op ≠ .readPacket) (he : s.sstate = .echo) (ha : s.arb = true) (hl : p.data.length ≤ 252)
    (hs : s.rxIn = arriving (wireFrame p last) ++ more) :
    ∃ k t, Runs k s t ∧ AtNextRead op more (frameEvents s.debug p last ++ [.rts false]) s t := by
  obtain ⟨x, hx, hframe⟩ := runs_recorded_frame hw hl hs
  rw [packetRead_echo hop (hx.sstate.trans he)] at hframe
  have hn : x.inputs = [] := hx.inputs.trans hw.noInputs
  have hrelease := step_release (s := goto op .release x) hn rfl (hx.arb.trans ha)
  refine ⟨_, _, runs_trans hframe (runs_one hrelease), hx.unread ▸ ?_⟩
  refine atNextRead_readAgain (t := { setRts false (goto op .release x) with sstate := .resp }) (hx.toListened.trans ?_)
    (hx.closing.trans hw.notClosing) hn hx.buffer rfl rfl ?_
  · exact ⟨(kept_goto op .release x).trans ((kept_setRts _ _).trans (kept_sstate _ _)), rfl, rfl⟩
  · rw [← List.append_assoc, ← hx.produced]
    rfl

theorem ignoredEvents_cons (debug : Bool) (f : Packet × Byte) (frames : List (Packet × Byte)) :
    ignoredEvents debug (f :: frames) =
      (frameEvents debug f.1 f.2 ++ if debug then [Event.dbg .ignored] else []) ++ ignoredEvents debug frames :=
  List.flatMap_cons

/-- A frame for another address: one step for each of its events (R207). -/
theorem runs_foreign_frame {s : State} {op : OpName} {p : Packet} {last : Byte} {more : List Arrival}
    (hw : s.AwaitsFrame op) (hop : op ≠ .readPacket) (hq : s.sstate = .resp) (hrts : s.rts = false)
    (hl : p.data.length ≤ 252) (ha : p.rcv ≠ s.localAddr) (hs : s.rxIn = arriving (wireFrame p last) ++ more) :
    ∃ t, Runs (frameEvents s.debug p last ++ if s.debug then [Event.dbg .ignored] else []).length s t ∧
      AtNextRead op more (frameEvents s.debug p last ++ if s.debug then [Event.dbg .ignored] else []) s t := by
  obtain ⟨x, hx, hframe⟩ := runs_recorded_frame hw hl hs
  have hn : x.inputs = [] := hx.inputs.trans hw.noInputs
  have hdropped := runs_ignored (s := x) hn hop (hx.sstate.trans hq) (by rwa [hx.rcv, hx.localAddr])
  rw [hx.debug] at hdropped
  refine ⟨_, runs_cast (runs_trans hframe hdropped) ?_ rfl, hx.unread ▸ ?_⟩
  · rw [List.length_append]
    cases s.debug <;> rfl
  · refine atNextRead_readAgain (t := x.withEvents _) (hx.toListened.trans ⟨?_, rfl, rfl⟩)
      (hx.closing.trans hw.notClosing) hn hx.buffer (hx.sstate.trans hq) (hx.rts.trans hrts) ?_
    · exact ⟨rfl, rfl, rfl, rfl, rfl, rfl, rfl, _, rfl⟩
    · rw [← List.append_assoc, ← hx.produced]
      rfl

/-- Any number of frames for other addresses (R207, R215). -/
theorem runs_foreign_frames {s : State} {op : OpName} {foreign : List (Packet × Byte)} {more : List Arrival}
    (hw : s.AwaitsFrame op) (hop : op ≠ .readPacket) (hq : s.sstate = .resp) (hrts : s.rts = false)
    (hforeign : ∀ f ∈ foreign, f.1.data.length ≤ 252 ∧ f.1.rcv ≠ s.localAddr)
    (hs : s.rxIn = arriving (wireFrames foreign) ++ more) :
    ∃ t, Runs (ignoredEvents s.debug foreign).length s t ∧ AtNextRead op more (ignoredEvents s.debug foreign) s t := by
  induction foreign generalizing s with
  | nil => exact ⟨s, runs_zero s, .refl s, hw, hq, hrts, hs, (List.append_nil _).symm⟩
  | cons f rest ih =>
    obtain ⟨⟨hl, ha⟩, hrest⟩ := List.forall_mem_cons.mp hforeign
    have hqueue : s.rxIn = arriving (wireFrame f.1 f.2) ++ (arriving (wireFrames rest) ++ more) := by
      rw [hs]
      simp [wireFrames, arriving]
    obtain ⟨t, hfirst, ht⟩ := runs_foreign_frame hw hop hq hrts hl ha hqueue
    obtain ⟨u, hothers, hu⟩ := ih ht.awaits ht.responds ht.released (by rwa [ht.localAddr]) ht.unread
    rw [ht.debug] at hothers hu
    rw [ignoredEvents_cons, List.length_append]
    exact ⟨u, runs_trans hfirst hothers, ht.trans hu⟩

/-- READ_PACKET reads with the sequencer idle, so in the echo step and in the response loop the operation is another
(R204, R213). -/
theorem State.Inv.ne_readPacket {s : State} {op : OpName} (hi : s.Inv) (hr : s.running = some ⟨op, .read⟩)
    (hq : s.sstate ≠ .idle) : op ≠ .readPacket := by
  obtain ⟨hfits, -⟩ : readingFits op s ∧ s.rstate ≠ .done := hi.task _ hr
  rintro rfl
  rcases hfits with ⟨-, hidle⟩ | ⟨hop, -⟩
  · exact hq hidle
  · simp at hop

/-- The Reader that is SCANNING has counted nothing (R151). -/
theorem State.Inv.awaitsFrame {s : State} {op : OpName} (hi : s.Inv) (hr : s.running = some ⟨op, .read⟩)
    (hc : s.closing = 0) (h : s.inputs = []) (hsc : s.rstate = .scanning) : s.AwaitsFrame op := by
  have hreader := hi.reader
  simp only [readerFits, hsc] at hreader
  exact ⟨hr, hc, h, hsc, hreader.1, hi.rxBuffer⟩

/-- Settles O47: each frame for another address leads to another read of the response loop. -/
theorem filteringNeverGivesUp : Obligations.FilteringNeverGivesUp := by
  intro s op foreign more hinv hr hresp hsc hc hinputs hforeign hqueue
  obtain ⟨u, hrun, hu⟩ := runs_foreign_frames (hinv.awaitsFrame hr hc hinputs hsc)
    (hinv.ne_readPacket hr (by simp [hresp])) hresp (hinv.rts_of_responseRead hr hresp) hforeign hqueue
  exact ⟨u, hrun, hu.awaits.reading.trans hr.symm, hu.responds, hu.awaits.scanning, hu.unread, hu.produced⟩

/-! ## The echo at its last byte -/

/-- The echo step belongs to an arbitrated session (R204). -/
theorem State.Inv.arb_of_echoRead {s : State} {op : OpName} (hi : s.Inv) (hr : s.running = some ⟨op, .read⟩)
    (hq : s.sstate = .echo) : s.arb = true := by
  obtain ⟨hfits, -⟩ : readingFits op s ∧ s.rstate ≠ .done := hi.task _ hr
  rcases hfits with ⟨-, hidle⟩ | ⟨-, ⟨-, harb⟩ | ⟨hresp, -⟩⟩
  · simp [hq] at hidle
  · exact harb
  · simp [hq] at hresp

/-- Settles O42: the last byte, with DEBUG = 1 the record, then the release. -/
theorem echoIsDroppedAndTheBusReleased : Obligations.EchoIsDroppedAndTheBusReleased := by
  intro s op b more hinv hr hop hecho hck hc hinputs hqueue
  have hlast := step_last_byte hr hc hinputs hqueue hck
  have hrecord := runs_packet_record (s := afterLastByte b more s) (op := op) hinputs
  rw [packetRead_echo (s := (afterLastByte b more s).withEvents _) (hinv.ne_readPacket hr (by simp [hecho])) hecho]
    at hrecord
  refine ⟨_, _, runs_cast (runs_succ hlast hrecord) ?_ rfl, rfl, rfl,
    step_release hinputs rfl (hinv.arb_of_echoRead hr hecho), ?_⟩
  · show (if s.debug then 1 else 0) + 1 = _
    cases s.debug <;> rfl
  · have hpacket : (afterLastByte b more s).rxPacket = { s.rxPacket with receivedChecksum := some b } := rfl
    have hdebug : (afterLastByte b more s).debug = s.debug := rfl
    rw [hpacket, hdebug]
    simp only [readAgain, goto, startRead, setRts, emit, afterLastByte, State.withEvents, hr, List.append_assoc]

/-! ## The whole of Receive -/

/-- The operation has completed with the packet, the bus released, `more` unread and just these events produced
(R208). -/
structure Delivered (packet : Packet) (more : List Arrival) (events : List Event) (s t : State) : Prop
    extends Listened s t where
  ended : t.running = none
  sequencer : t.sstate = .idle
  status : t.lastSt = .ok
  delivered : t.result = .packet packet
  released : t.rts = false
  unread : t.rxIn = more
  produced : t.history = s.history ++ events

theorem AtNextRead.delivered {op : OpName} {more more' : List Arrival} {events events' : List Event} {packet : Packet}
    {s t u : State} (h : AtNextRead op more events s t) (h' : Delivered packet more' events' t u) :
    Delivered packet more' (events ++ events') s u :=
  ⟨h.toListened.trans h'.toListened, h'.ended, h'.sequencer, h'.status, h'.delivered, h'.released, h'.unread,
    by rw [h'.produced, h.produced, List.append_assoc]⟩

/-- A frame addressed to LOCAL_ADDR in the response loop (R208). -/
theorem runs_addressed_frame {s : State} {op : OpName} {p : Packet} {last : Byte} {more : List Arrival}
    (hw : s.AwaitsFrame op) (hop : op ≠ .readPacket) (hq : s.sstate = .resp) (hrts : s.rts = false)
    (hl : p.data.length ≤ 252) (ha : p.rcv = s.localAddr) (hs : s.rxIn = arriving (wireFrame p last) ++ more) :
    ∃ k t, Runs k s t ∧
      Delivered (p.received last) more
        (frameEvents s.debug p last ++ [Event.done op .ok (.packet (p.received last))]) s t := by
  obtain ⟨x, hx, hframe⟩ := runs_recorded_frame hw hl hs
  rw [packetRead_addressed hop (hx.sstate.trans hq) (by rw [hx.rcv, hx.localAddr, ha]), hx.packet] at hframe
  refine ⟨_, _, hframe, hx.toListened.trans ⟨kept_complete _ _ _ _, rfl, rfl⟩, rfl, rfl, rfl, rfl, hx.rts.trans hrts,
    hx.unread, ?_⟩
  rw [complete_history, hx.produced, List.append_assoc]
  rfl

/-- The response loop: frames for other addresses, then one that is addressed to LOCAL_ADDR (R207, R208). -/
theorem runs_response {s : State} {op : OpName} {foreign : List (Packet × Byte)} {p : Packet} {last : Byte}
    {more : List Arrival} (hw : s.AwaitsFrame op) (hop : op ≠ .readPacket) (hq : s.sstate = .resp)
    (hrts : s.rts = false) (hforeign : ∀ f ∈ foreign, f.1.data.length ≤ 252 ∧ f.1.rcv ≠ s.localAddr)
    (hl : p.data.length ≤ 252) (ha : p.rcv = s.localAddr)
    (hs : s.rxIn = arriving (wireFrames foreign) ++ (arriving (wireFrame p last) ++ more)) :
    ∃ k t, Runs k s t ∧
      Delivered (p.received last) more
        (ignoredEvents s.debug foreign ++
          (frameEvents s.debug p last ++ [Event.done op .ok (.packet (p.received last))])) s t := by
  obtain ⟨t, hignored, ht⟩ := runs_foreign_frames hw hop hq hrts hforeign hs
  obtain ⟨k, u, haddressed, hu⟩ :=
    runs_addressed_frame ht.awaits hop ht.responds ht.released hl (ha.trans ht.localAddr.symm) ht.unread
  rw [ht.debug] at hu
  exact ⟨_, u, runs_trans hignored haddressed, ht.delivered hu⟩

/-- The events of Receive from its first read: those of the echo and its release with ARB = 1, of the frames the filter
drops, of the addressed frame, and the completion (R204 to R208). -/
def receiveEvents (arb debug : Bool) (op : OpName) (echo : Packet × Byte) (foreign : List (Packet × Byte)) (p : Packet)
    (last : Byte) : List Event :=
  (if arb then frameEvents debug echo.1 echo.2 ++ [Event.rts false] else []) ++
    (ignoredEvents debug foreign ++ (frameEvents debug p last ++ [Event.done op .ok (.packet (p.received last))]))

/-- Receive from its first read: in an arbitrated session the echo, then the response loop (R204). -/
theorem runs_receive {s : State} {op : OpName} {echo : Packet × Byte} {foreign : List (Packet × Byte)} {p : Packet}
    {last : Byte} {more : List Arrival} (hw : s.AwaitsFrame op) (hop : op ≠ .readPacket)
    (hq : s.sstate = if s.arb then .echo else .resp) (hrts : s.arb = false → s.rts = false)
    (hecho : echo.1.data.length ≤ 252) (hforeign : ∀ f ∈ foreign, f.1.data.length ≤ 252 ∧ f.1.rcv ≠ s.localAddr)
    (hl : p.data.length ≤ 252) (ha : p.rcv = s.localAddr)
    (hs : s.rxIn =
      arriving ((if s.arb then wireFrame echo.1 echo.2 else []) ++ wireFrames foreign ++ wireFrame p last) ++ more) :
    ∃ k t, Runs k s t ∧ Delivered (p.received last) more (receiveEvents s.arb s.debug op echo foreign p last) s t := by
  unfold receiveEvents
  simp only [arriving, List.map_append, List.append_assoc] at hs
  cases harb : s.arb with
  | false =>
    simp only [harb, Bool.false_eq_true, if_false, List.map_nil, List.nil_append] at hs hq ⊢
    exact runs_response hw hop hq (hrts harb) hforeign hl ha hs
  | true =>
    simp only [harb, if_true] at hs hq ⊢
    obtain ⟨k, t, hdropped, ht⟩ := runs_echo hw hop hq harb hecho hs
    obtain ⟨k', u, hloop, hu⟩ := runs_response ht.awaits hop ht.responds ht.released (by rwa [ht.localAddr]) hl
      (ha.trans ht.localAddr.symm) ht.unread
    rw [ht.debug] at hu
    exact ⟨_, u, runs_trans hdropped hloop, ht.delivered hu⟩

/-! ## The start of a read -/

/-- Settles O34: both commands are admitted, and start a read at once. -/
theorem readsStartInScanning : Obligations.ReadsStartInScanning := by
  intro s ho hb
  have hread : admitted .readPacket s = true := by simp [admitted, ho, hb]
  have hreceive : admitted .receive s = true := by simp [admitted, ho, hb]
  constructor
  · rw [exec, execReadPacket, if_pos hread]
    rfl
  · rw [exec, execReceive, if_pos hreceive]
    rfl

/-- Settles O45: RECEIVE starts a read, and from there the echo, the frames for other addresses and the addressed one
follow. -/
theorem receiveReturnsTheFirstAddressedPacket : Obligations.ReceiveReturnsTheFirstAddressedPacket := by
  intro s echo foreign p last more hready hinv hecho hl hforeign ha hqueue
  obtain ⟨-, hexec⟩ := readsStartInScanning s hready.opened (not_busy_of_none hready.notRunning)
  obtain ⟨k, u, hrun, hu⟩ := runs_receive (s := beginReceive (accept .receive .read s)) (op := .receive)
    ⟨rfl, hready.notClosing, hready.noInputs, rfl, rfl, hinv.rxBuffer⟩ (by simp) rfl hinv.rts_of_not_arb hecho hforeign
    hl ha hqueue
  refine ⟨_, k, u, hexec, hrun, ?_, ?_⟩
  · exact State.ext hu.localAddr hu.ctrl hu.readTimeout hu.sess hu.status hu.released hu.tx rfl rfl rfl rfl
      (hu.sequencer.trans (hinv.idleSequencer hready.notRunning).symm) hu.delivered
      (hu.ended.trans hready.notRunning.symm) hu.closing hu.unread hu.ctsIn hu.draws hu.inputs rfl
  · rw [hu.produced]
    simp only [receiveEvents, List.append_assoc]
    rfl

end Sys2Proof.Machine
end

section
/-! The Reader's transitions (R163), one equation per row of the table, and what READ_PACKET shows of them. -/

namespace Sys2Proof.Machine

/-! ## The rows of the table -/

theorem readerByte_som {s : State} (hs : s.rstate = .scanning) :
    readerByte Config.som s = { s with rstate := .header, hidx := 0 } := by
  simp only [readerByte, hs, if_true]

theorem headerByte_len {s : State} {b : Byte} (hx : s.hidx = 0) (hb : 3 ≤ b.toNat) :
    headerByte b s = { s with rxLen := b, hidx := 1 } := by
  have hfirst : s.hidx.toNat = 0 := congrArg BitVec.toNat hx
  simp only [headerByte, hfirst]
  exact if_neg (Nat.not_lt.mpr hb)

theorem headerByte_src {s : State} (b : Byte) (hx : s.hidx = 1) :
    headerByte b s = { s with rx := { s.rx with src := b }, hidx := 2 } := by
  have hsecond : s.hidx.toNat = 1 := congrArg BitVec.toNat hx
  simp only [headerByte, hsecond]

theorem headerByte_rcv {s : State} (b : Byte) (hx : s.hidx = 2) :
    headerByte b s = { s with rx := { s.rx with rcv := b }, hidx := 3 } := by
  have hthird : s.hidx.toNat = 2 := congrArg BitVec.toNat hx
  simp only [headerByte, hthird]

theorem headerByte_cmd {s : State} (b : Byte) (hx : s.hidx = 3) :
    headerByte b s =
      { s with
        rx := { s.rx with cmd := b }, hidx := 0, rstate := if s.rxLen = 3 then .checksum else .payload } := by
  have hfourth : s.hidx.toNat = 3 := congrArg BitVec.toNat hx
  have hlen : s.rxLen.toNat = Config.overhead ↔ s.rxLen = 3 := BitVec.toNat_inj (y := 3)
  simp only [headerByte, hfourth, hlen]

theorem readerByte_payload {s : State} (b : Byte) (hs : s.rstate = .payload) : readerByte b s = payloadByte b s := by
  simp only [readerByte, hs]

theorem readerByte_checksum {s : State} (b : Byte) (hs : s.rstate = .checksum) :
    readerByte b s = { s with rx := { s.rx with chk := b, chkPresent := true }, rstate := .done } := by
  simp only [readerByte, hs]

/-- In PAYLOAD the count is below what LEN allows, so it does not wrap (R155). -/
theorem State.Inv.count_succ {s : State} (hi : s.Inv) (hs : s.rstate = .payload) :
    (s.rx.cnt + 1).toNat = s.rx.cnt.toNat + 1 := by
  have hreader := hi.reader
  simp only [readerFits, hs, Config.overhead] at hreader
  have hmax := s.rxLen.isLt
  rw [BitVec.toNat_add]
  exact Nat.mod_eq_of_lt (by simp; omega)

/-! ## READ_PACKET -/

/-- The Reader's own registers (R31, R32, R28). -/
def State.readerRegisters (s : State) : ReaderState × BitVec 2 × Byte × RxReg := (s.rstate, s.hidx, s.rxLen, s.rx)

theorem packetRead_readPacket_registers (s : State) :
    (packetRead .readPacket s).readerRegisters = s.readerRegisters := rfl

/-- A byte that waits changes the Reader's registers as its transition says, whether it is dropped, goes on, or ends
the frame. -/
theorem step_readPacket_byte {s : State} {b : Byte} {more : List Arrival}
    (hr : s.running = some ⟨.readPacket, .read⟩) (hc : s.closing = 0) (h : s.inputs = [])
    (hs : s.rxIn = .byte b :: more) :
    ∃ t, step s = .next t ∧ t.rxIn = more ∧ t.readerRegisters = (readerByte b s).readerRegisters := by
  refine ⟨_, step_task h hr rfl, ?_⟩
  rw [taskStep, readStep_byte hc hs]
  cases hn : isNoise b s with
  | true =>
    rw [readerByte_of_noise hn]
    cases hd : s.debug <;> exact ⟨rfl, rfl⟩
  | false =>
    simp only [Bool.false_eq_true, if_false]
    split
    · cases hd : s.debug <;> exact ⟨rfl, rfl⟩
    · exact ⟨rfl, rfl⟩

/-- Settles O37: the registers after the step are those of the transition, row by row. -/
theorem readerTransitionsOnAByte : Obligations.ReaderTransitionsOnAByte := by
  intro s b more hinv hr hc hinputs hqueue
  obtain ⟨t, hstep, hunread, hregisters⟩ := step_readPacket_byte hr hc hinputs hqueue
  refine ⟨t, hstep, hunread, fun hs hb => ?_, fun hs hb => ?_, fun hs hx hb => ?_, fun hs hx hb => ?_, fun hs hx => ?_,
    fun hs hx => ?_, fun hs hx => ?_, fun hs => ?_, fun hs => ?_⟩
  · subst hb
    exact hregisters.trans (congrArg _ (readerByte_som hs))
  · have hsom : b ≠ Config.som := hb
    have hnoise : isNoise b s = true := by simp [isNoise, hs, hsom]
    rw [readerByte_of_noise hnoise] at hregisters
    exact hregisters.trans (congrArg (·, _) hs)
  · rw [readerByte_of_header b hs, headerByte_len hx hb] at hregisters
    exact hregisters.trans (congrArg (·, _) hs)
  · rw [readerByte_of_header b hs, headerByte_of_small_len hx hb] at hregisters
    exact hregisters.trans (congrArg (fun x => (_, x, _)) hx)
  · rw [readerByte_of_header b hs, headerByte_src b hx] at hregisters
    exact hregisters.trans (congrArg (·, _) hs)
  · rw [readerByte_of_header b hs, headerByte_rcv b hx] at hregisters
    exact hregisters.trans (congrArg (·, _) hs)
  · rw [readerByte_of_header b hs, headerByte_cmd b hx] at hregisters
    exact hregisters
  · rw [readerByte_payload b hs] at hregisters
    have hcount := hinv.count_succ hs
    have hreader := hinv.reader
    simp only [readerFits, hs, Config.overhead] at hreader
    have hlast : (s.rx.cnt + 1).toNat + Config.overhead = s.rxLen.toNat ↔ s.rx.cnt.toNat + 1 = s.rxLen.toNat - 3 := by
      rw [hcount, Config.overhead]
      omega
    simp only [State.readerRegisters, payloadByte, hlast, Prod.mk.injEq] at hregisters
    obtain ⟨hrstate, hhidx, hrxLen, hrx⟩ := hregisters
    rw [hrx]
    exact ⟨hrstate, hhidx, hrxLen, hcount, rfl, rfl⟩
  · rw [readerByte_checksum b hs] at hregisters
    exact hregisters

end Sys2Proof.Machine
end

section
/-! The order of the debug records (R212): with DEBUG = 1 each record is the step after the byte it is about, and DBG_TX
the step before the write. -/

namespace Sys2Proof.Machine

/-- The write of the frame is the first event of its step (R201). -/
theorem writeStep_history (op : OpName) (s : State) :
    ∃ after, (writeStep op s).history = s.history ++ [.tx (encodePacket s.txPacket)] ++ after := by
  unfold writeStep
  simp only
  split
  · exact ⟨[], (List.append_nil _).symm⟩
  · exact ⟨_, rfl⟩

/-- The state with the DBG_RX record of its packet (R158). -/
def State.recorded (s : State) : State := s.withEvents [.dbg (.rx (describePacket s.rxPacket))]

/-- The record of a packet, and what follows it (R158). -/
theorem step_debugRx {s : State} {op : OpName} (h : s.inputs = []) :
    step (goto op .debugRx s) = .next (packetRead op s.recorded) :=
  step_task (t := ⟨op, .debugRx⟩) h rfl (packetRead_goto op .debugRx (emit _ s))

/-- Settles O49: two steps for a dropped byte and for a frame's last byte, a third for a packet the filter drops, and
two for DBG_TX and the write. -/
theorem debugRecordsInOrder : Obligations.DebugRecordsInOrder := by
  intro s op hinv hdebug hc hinputs
  refine ⟨fun b more hr hqueue hs hb => ?_, fun b more hr hqueue hs => ?_, fun hr => ?_⟩
  · have hrun := runs_noise_byte hr hc hinputs hs hb hqueue
    rw [hdebug] at hrun
    obtain ⟨t, hread, hrest⟩ := runs_succ_iff.mp hrun
    obtain ⟨u, hrecord, hend⟩ := runs_succ_iff.mp hrest
    cases hend
    exact ⟨t, hread, hrecord⟩
  · have hlast := step_last_byte hr hc hinputs hqueue hs
    rw [if_pos hdebug] at hlast
    have hrecord := step_debugRx (s := afterLastByte b more s) (op := op) hinputs
    obtain ⟨after, hafter⟩ := (kept_packetRead op (afterLastByte b more s).recorded).history
    refine ⟨_, _, hlast, hrecord, after, hafter.trans ?_, fun hresp hforeign => ?_⟩
    · show s.history ++ [_] ++ [_] ++ _ = _
      simp only [List.append_assoc]
      rfl
    · have hignored : packetRead op (afterLastByte b more s).recorded =
          goto op .debugIgnored (afterLastByte b more s).recorded :=
        (packetRead_foreign (s := (afterLastByte b more s).recorded) (hinv.ne_readPacket hr (by simp [hresp])) hresp
          hforeign).trans (if_pos hdebug)
      rw [hignored] at hafter ⊢
      exact ⟨List.append_right_eq_self.mp hafter.symm, _, step_task (t := ⟨op, .debugIgnored⟩) hinputs rfl rfl, rfl,
        rfl, rfl⟩
  · obtain ⟨after, hafter⟩ := writeStep_history op (debugTxStep op s)
    refine ⟨_, _, after, step_task hinputs hr rfl, step_task (t := ⟨op, .write⟩) hinputs rfl rfl, hafter.trans ?_⟩
    show s.history ++ [_] ++ [_] ++ _ = _
    simp only [List.append_assoc]
    rfl

end Sys2Proof.Machine
end

section
/-! BUILD (R121), and the refusals of the admission table (R200): an operation that STATUS does not allow is refused
before it does anything else. -/

namespace Sys2Proof.Machine

theorem exec_build_of_good {s : State} {src rcv cmd : Int} {data : List Int} (hb : s.busy = false)
    (h : goodPacket [src, rcv, cmd] data) :
    ∃ p, p.Carries src rcv cmd data ∧
      exec (.build src rcv cmd data) s =
        .next (({ s with tx := (loadTx p s).tx } : State).ended .build .ok (.packet p)) := by
  obtain ⟨p, hp, hcarries⟩ := construct_some h
  refine ⟨p, hcarries, ?_⟩
  rw [exec, execBuild, codecStep_of_idle _ (by simp) hb, hp]
  rfl

theorem exec_build_of_busy {s : State} (src rcv cmd : Int) (data : List Int) (hb : s.busy = true) :
    exec (.build src rcv cmd data) s = .next (s.ended .build .refused .empty) := by
  rw [exec, execBuild, codecStep_of_busy _ (by simp) hb]

/-- A packet that carries what construction accepts fits the buffer. -/
theorem goodPacket.carried_length {p : Packet} {src rcv cmd : Int} {header data : List Int}
    (h : goodPacket header data) (hp : p.Carries src rcv cmd data) : p.data.length ≤ 252 :=
  (carries_length hp).trans_le h.2

/-- Settles O14: construction accepts or refuses the operands as a whole, before anything is written. -/
theorem buildConstructsOrRefuses : Obligations.BuildConstructsOrRefuses := by
  intro s src rcv cmd data
  refine ⟨fun hb hgood => ?_, exec_build_of_malformed, exec_build_of_busy src rcv cmd data⟩
  obtain ⟨p, hcarries, hexec⟩ := exec_build_of_good hb hgood
  exact ⟨p, _, hcarries, loadTx_holds p s (hgood.carried_length hcarries), hexec⟩

/-! ## Refusals by STATUS -/

theorem not_admitted_openSession {s : State} (h : s.sess = .opened ∨ s.busy = true) :
    ¬ admitted .openSession s = true := by
  rcases h with h | h <;> simp [admitted, h]

/-- An operation on the line needs an open session and a block that is not busy (R162, R187, R200). -/
theorem not_admitted_line {op : OpName} {s : State}
    (ho : op = .readPacket ∨ op = .takeBus ∨ op = .releaseBus ∨ op = .send ∨ op = .receive ∨ op = .sendReceive)
    (h : s.sess = .closed ∨ s.busy = true) : ¬ admitted op s = true := by
  intro hadmitted
  obtain ⟨hopened, hidle⟩ := line_admitted ho hadmitted
  rcases h with h | h
  · simp [hopened] at h
  · simp [not_busy_of_none hidle] at h

theorem execSendLike_of_not_admitted {op : OpName} {s : State} (dst cmd : Int) (data : List Int)
    (h : ¬ admitted op s = true) : execSendLike op dst cmd data s = .next (s.ended op .refused .empty) := by
  rw [execSendLike, if_neg h]
  rfl

/-- Settles O20: in each refused cell the operation is not admitted. -/
theorem admissionTableRefuses : Obligations.AdmissionTableRefuses := by
  intro s
  refine ⟨fun h addr ctrl timeout => ?_, exec_closeSession_of_closed, fun hb => ⟨fun src rcv cmd data => ?_,
    fun sel value => ⟨?_, ?_, ?_, ?_⟩⟩, fun h => ⟨?_, ?_, ?_, ?_, fun dst cmd data => ⟨?_, ?_⟩⟩⟩
  · rw [exec, execOpen, if_neg (not_admitted_openSession h)]
    rfl
  · exact exec_build_of_busy src rcv cmd data hb
  · rw [exec, execEncode, codecStep_of_busy _ (by simp) hb]
  · rw [exec, execChecksumValid, codecStep_of_busy _ (by simp) hb]
  · rw [exec, execDescribe, codecStep_of_busy _ (by simp) hb]
  · exact exec_intTo3Bytes_of_busy value hb
  · rw [exec, execReadPacket, if_neg (not_admitted_line (by simp) h)]
    rfl
  · rw [exec, execTakeBus, if_neg (not_admitted_line (by simp) h)]
    rfl
  · rw [exec, execReleaseBus, if_neg (not_admitted_line (by simp) h)]
    rfl
  · rw [exec, execReceive, if_neg (not_admitted_line (by simp) h)]
    rfl
  · exact execSendLike_of_not_admitted dst cmd data (not_admitted_line (by simp) h)
  · exact execSendLike_of_not_admitted dst cmd data (not_admitted_line (by simp) h)

end Sys2Proof.Machine
end

section
/-! TAKE_BUS (R181 to R184, R233): busy samples of CTS lead back to the same place, a free one asserts RTS. -/

namespace Sys2Proof.Machine

theorem withEvents_withEvents (s : State) (e e' : List Event) :
    (s.withEvents e).withEvents e' = s.withEvents (e ++ e') := by
  simp [State.withEvents]

/-- Settles O28: each busy sample is a step that changes the script and the history alone. -/
theorem takeBusPollsWithoutBound : Obligations.TakeBusPollsWithoutBound := by
  intro s op n later hr hc hinputs hcts
  induction n generalizing s with
  | zero =>
    obtain rfl : s.ctsIn = later := hcts
    exact (withEvents_nil s).symm ▸ runs_zero s
  | succ n ih =>
    have hfirst := step_sample_busy hinputs hr hc hcts
    have hothers := ih (({ s with ctsIn := List.replicate n true ++ later } : State).withEvents [.cts (.level true)])
      hr hc hinputs rfl
    exact runs_cast (runs_succ hfirst hothers) rfl (withEvents_withEvents { s with ctsIn := later } _ _)

/-- The events of TakeBus after `n` busy samples (R181). -/
def takeBusEvents (n : Nat) : List Event :=
  List.replicate n (Event.cts (.level true)) ++ [Event.cts (.level false), Event.rts true]

/-- Where TakeBus returns to does not depend on the place it was in. -/
theorem afterTakeBus_running (op : OpName) (s : State) (r : Option Task) :
    afterTakeBus op { s with running := r } = afterTakeBus op s := by
  unfold afterTakeBus
  split <;> rfl

/-- The end of TakeBus (R181). -/
theorem step_assert {s : State} {op : OpName} (h : s.inputs = []) (hr : s.running = some ⟨op, .assertRts⟩) :
    step s = .next (afterTakeBus op (setRts true s)) := step_task h hr rfl

/-- TakeBus from its first sample: busy samples, a free one, and `RTS <- 1` (R181). -/
theorem runs_takeBus {s : State} {op : OpName} {n : Nat} {later : List Bool} (h : s.inputs = [])
    (hr : s.running = some ⟨op, .sample⟩) (hc : s.closing = 0)
    (hcts : s.ctsIn = List.replicate n true ++ false :: later) :
    Runs (n + 2) s
      (afterTakeBus op (({ s with ctsIn := later, rts := true } : State).withEvents (takeBusEvents n))) := by
  have hbusy := takeBusPollsWithoutBound s op n (false :: later) hr hc h hcts
  have hfree := step_sample_free (s := ({ s with ctsIn := false :: later } : State).withEvents
    (List.replicate n (.cts (.level true)))) h hr hc rfl
  refine runs_cast (runs_trans hbusy (runs_succ hfree (runs_one (step_assert h rfl)))) rfl ?_
  rw [← afterTakeBus_running op (({ s with ctsIn := later, rts := true } : State).withEvents (takeBusEvents n))
    (some ⟨op, .assertRts⟩)]
  simp only [setRts, emit, State.withEvents, takeBusEvents, List.append_assoc, List.cons_append, List.nil_append]

theorem exec_takeBus_of_ready {s : State} (h : s.ready) :
    exec .takeBus s = .next (if s.arb then accept .takeBus .sample s else finish .takeBus .ok .empty s) := by
  have hadmitted : admitted .takeBus s = true := by simp [admitted, h.opened, h.notRunning]
  rw [exec, execTakeBus, if_pos hadmitted]

/-- Settles O27: with ARB = 0 the command completes at once, with ARB = 1 at the end of TakeBus. -/
theorem takeBusTakesAFreeBus : Obligations.TakeBusTakesAFreeBus := by
  intro s hready
  refine ⟨fun harb => ?_, fun harb n later hcts => ?_⟩
  · rw [exec_takeBus_of_ready hready, harb]
    rfl
  · refine ⟨accept .takeBus .sample s, by rw [exec_takeBus_of_ready hready, harb, if_pos rfl], ?_⟩
    refine runs_cast (runs_takeBus hready.noInputs rfl hready.notClosing hcts) rfl ?_
    rw [afterTakeBus, if_pos rfl]
    exact State.ext rfl rfl rfl rfl rfl rfl rfl rfl rfl rfl rfl rfl rfl hready.notRunning.symm rfl rfl rfl rfl rfl rfl

end Sys2Proof.Machine
end

section
/-! SEND and SEND_RECEIVE (R201 to R203, R210): the packet is built, the bus taken, the record emitted with DEBUG = 1,
and the frame written; then SEND completes and SEND_RECEIVE receives. -/

namespace Sys2Proof.Machine

/-- The events of Send up to its write: those of TakeBus with ARB = 1, the record with DEBUG = 1, and the one frame
(R201, R212). -/
def sendEvents (n : Nat) (p : Packet) (s : State) : List Event :=
  (if s.arb then takeBusEvents n else []) ++ (if s.debug then [Event.dbg (.tx (describePacket p))] else []) ++
    [Event.tx (encodePacket p)]

/-- The packet is in the TX packet register, the bus taken with ARB = 1, and the frame written (R201, R203). -/
def frameSent (op : OpName) (n : Nat) (later : List Bool) (p : Packet) (s : State) : State :=
  ({ loadTx p s with
      running := some ⟨op, .write⟩, result := .empty, sstate := .write,
      ctsIn := if s.arb then later else s.ctsIn, rts := if s.arb then true else s.rts } : State).withEvents
    (sendEvents n p s)

/-- What follows the write: SEND completes, SEND_RECEIVE goes on to Receive (R203, R210). -/
def afterWrite (op : OpName) (s : State) : State :=
  if op = .sendReceive then goto op .read (beginReceive s) else complete op .ok .empty s

theorem writeStep_eq (op : OpName) (s : State) :
    writeStep op s = afterWrite op (emit (.tx (encodePacket s.txPacket)) s) := rfl

/-- Send about to write (R201). -/
def atWrite (op : OpName) (n : Nat) (later : List Bool) (s : State) : State :=
  ({ s with
      running := some ⟨op, .write⟩, result := .empty, sstate := .write,
      ctsIn := if s.arb then later else s.ctsIn, rts := if s.arb then true else s.rts } : State).withEvents
    ((if s.arb then takeBusEvents n else []) ++ (if s.debug then [Event.dbg (.tx (describePacket s.txPacket))] else []))

/-- Send from its start to its write. -/
theorem runs_beginSend {s : State} {op : OpName} {n : Nat} {later : List Bool} (h : s.inputs = [])
    (hc : s.closing = 0) (hop : op ≠ .takeBus)
    (hcts : s.arb = true → s.ctsIn = List.replicate n true ++ false :: later) :
    Runs ((if s.arb then n + 2 else 0) + (if s.debug then 1 else 0)) (beginSend op s) (atWrite op n later s) := by
  unfold beginSend atWrite
  cases harb : s.arb with
  | false =>
    have hwrite := runs_afterTakeBus (s := accept op .sample { s with sstate := .take }) (op := op) h hop
    exact runs_cast hwrite (Nat.zero_add _).symm rfl
  | true =>
    have htake := runs_takeBus (s := accept op .sample { s with sstate := .take }) h rfl hc (hcts harb)
    have hwrite := runs_afterTakeBus (s := ({ accept op .sample { s with sstate := .take } with
      ctsIn := later, rts := true } : State).withEvents (takeBusEvents n)) (op := op) h hop
    exact runs_cast (runs_trans htake hwrite) rfl (withEvents_withEvents { s with
      running := some ⟨op, .write⟩, result := .empty, sstate := .write, ctsIn := later, rts := true } _ _)

/-- SEND and SEND_RECEIVE with operands that construction accepts, up to what follows the write (R201, R210). -/
theorem runs_sendLike {op : OpName} {s : State} {dst cmd : Int} {data : List Int} {n : Nat} {later : List Bool}
    (hop : sendLike op) (hready : s.ready) (hgood : goodPacket [dst, cmd] data)
    (hcts : s.arb = true → s.ctsIn = List.replicate n true ++ false :: later) :
    ∃ p t, construct s.localAddr.toNat dst cmd data = some p ∧ p.Carries s.localAddr.toNat dst cmd data ∧
      (loadTx p s).tx.Holds p s.tx ∧ execSendLike op dst cmd data s = .next t ∧
      Runs ((if s.arb then n + 2 else 0) + (if s.debug then 1 else 0) + 1) t
        (afterWrite op (frameSent op n later p s)) := by
  obtain ⟨p, hp, hcarries⟩ := construct_some (goodPacket_local s hgood)
  have hl := hgood.carried_length hcarries
  have hadmitted : admitted op s = true := by
    rcases hop with rfl | rfl <;> simp [admitted, hready.opened, hready.notRunning]
  have hnotTake : op ≠ .takeBus := by rcases hop with rfl | rfl <;> simp
  have hstart := runs_beginSend (s := loadTx p s) (op := op) hready.noInputs hready.notClosing hnotTake hcts
  refine ⟨p, _, hp, hcarries, loadTx_holds p s hl, by rw [execSendLike, if_pos hadmitted, hp], ?_⟩
  refine runs_cast (runs_trans hstart (runs_one (step_task (t := ⟨op, .write⟩) hready.noInputs rfl
    (writeStep_eq op _)))) rfl (congrArg (afterWrite op) ?_)
  have hloaded : (loadTx p s).txPacket = p := txPacket_loadTx p s hcarries.absent hl
  have hwritten : (atWrite op n later (loadTx p s)).txPacket = p := hloaded
  rw [hwritten, atWrite, hloaded]
  exact withEvents_withEvents _ _ [.tx (encodePacket p)]

/-- Settles O31: SEND completes with the write. -/
theorem sendWritesOneFrame : Obligations.SendWritesOneFrame := by
  intro s dst cmd data n later hready hgood hcts
  obtain ⟨p, t, -, hcarries, hholds, hexec, hrun⟩ := runs_sendLike (.inl rfl) hready hgood hcts
  refine ⟨p, (loadTx p s).tx, t, hcarries, hholds, hexec, runs_cast hrun rfl ?_⟩
  rw [afterWrite, if_neg (by simp)]
  exact State.ext rfl rfl rfl rfl rfl rfl rfl rfl rfl rfl rfl rfl rfl hready.notRunning.symm rfl rfl rfl rfl rfl rfl

/-- Settles O33: both operations run to the write of the same packet; there SEND leaves its completion, and
SEND_RECEIVE what RECEIVE starts with. -/
theorem sendReceiveIsSendThenReceive : Obligations.SendReceiveIsSendThenReceive := by
  intro s dst cmd data n later hready hgood hcts
  obtain ⟨p, t1, hp, -, -, hexec1, hrun1⟩ := runs_sendLike (.inr rfl) hready hgood hcts
  obtain ⟨p', t2, hp', -, -, hexec2, hrun2⟩ := runs_sendLike (.inl rfl) hready hgood hcts
  obtain rfl : p = p' := Option.some_inj.mp (hp.symm.trans hp')
  have hreceive := (readsStartInScanning (afterWrite .send (frameSent .send n later p s)) hready.opened rfl).2
  refine ⟨_, t1, _, t2, _, _, s.history ++ sendEvents n p s, hexec1, hrun1, hexec2, hrun2, rfl, rfl, hreceive, ?_⟩
  rfl

/-- Settles O46: after the write SEND_RECEIVE receives as RECEIVE does, and reads leave the TX packet register alone. -/
theorem sendReceiveReturnsTheFirstAddressedPacket : Obligations.SendReceiveReturnsTheFirstAddressedPacket := by
  intro s dst cmd data n later echo foreign p last more hready hinv hgood hcts hecho hl hforeign ha hqueue
  obtain ⟨q, t, -, hcarries, hholds, hexec, hsent⟩ := runs_sendLike (.inr rfl) hready hgood hcts
  have hrts : s.arb = false → (if s.arb then true else s.rts) = false := fun harb => by
    rw [harb]
    exact hinv.rts_of_not_arb harb
  obtain ⟨k, u, hreceived, hu⟩ := runs_receive
    (s := goto .sendReceive .read (beginReceive (frameSent .sendReceive n later q s))) (op := .sendReceive)
    ⟨rfl, hready.notClosing, hready.noInputs, rfl, rfl, hinv.rxBuffer⟩ (by simp) rfl hrts hecho
    hforeign hl ha hqueue
  have htx : u.tx = (loadTx q s).tx := hu.tx
  refine ⟨q, t, _, u, hcarries, hexec, runs_trans hsent hreceived, htx ▸ hholds, ?_, ?_⟩
  · exact State.ext hu.localAddr hu.ctrl hu.readTimeout hu.sess hu.status hu.released rfl rfl rfl rfl rfl
      (hu.sequencer.trans (hinv.idleSequencer hready.notRunning).symm) hu.delivered
      (hu.ended.trans hready.notRunning.symm) hu.closing hu.unread hu.ctsIn hu.draws hu.inputs rfl
  · rw [hu.produced]
    show s.history ++ sendEvents n q s ++ receiveEvents s.arb s.debug .sendReceive echo foreign p last = _
    simp only [sendEvents, receiveEvents, takeBusEvents, List.append_assoc]

end Sys2Proof.Machine
end

section
/-! One step of a running operation, seen from the line: what its interaction does to RTS, to the receive queue and to
the debug output, and to which place it goes on. The rest of the step touches none of the three. -/

namespace Sys2Proof.Machine

/-! ## The debug output -/

/-- Events that are no debug records add nothing to the debug output (R43). -/
theorem debugOutput_of_append {s t : State} {events : List Event} (h : t.history = s.history ++ events)
    (hn : ∀ e ∈ events, ∀ r, e ≠ .dbg r) : t.debugOutput = s.debugOutput := by
  unfold State.debugOutput
  rw [h, List.filterMap_append]
  refine (congrArg _ ?_).trans (List.append_nil _)
  rw [List.filterMap_eq_nil_iff]
  intro e he
  cases e with
  | dbg r => exact absurd rfl (hn _ he r)
  | rx | cts | rts | tx | done => rfl

/-! ## What an interaction leaves alone -/

/-- RTS, the receive queue and the debug output are as they were. -/
structure LineKept (s t : State) : Prop where
  rts : t.rts = s.rts
  rxIn : t.rxIn = s.rxIn
  debugOutput : t.debugOutput = s.debugOutput

theorem LineKept.refl (s : State) : LineKept s s := ⟨rfl, rfl, rfl⟩

theorem LineKept.trans {s t u : State} (h : LineKept s t) (h' : LineKept t u) : LineKept s u :=
  ⟨h'.rts.trans h.rts, h'.rxIn.trans h.rxIn, h'.debugOutput.trans h.debugOutput⟩

theorem lineKept_emit {e : Event} (he : ∀ r, e ≠ .dbg r) (s : State) : LineKept s (emit e s) :=
  ⟨rfl, rfl, debugOutput_of_append (events := [e]) rfl (by simpa using he)⟩

theorem lineKept_goto (op : OpName) (p : Point) (s : State) : LineKept s (goto op p s) := ⟨rfl, rfl, rfl⟩

theorem lineKept_accept (op : OpName) (p : Point) (s : State) : LineKept s (accept op p s) := ⟨rfl, rfl, rfl⟩

theorem lineKept_sstate (q : SeqState) (s : State) : LineKept s { s with sstate := q } := ⟨rfl, rfl, rfl⟩

theorem lineKept_forgetRx (s : State) : LineKept s (forgetRx s) := ⟨rfl, rfl, rfl⟩

theorem lineKept_finish (op : OpName) (st : Status) (res : Result) (s : State) : LineKept s (finish op st res s) :=
  ⟨rfl, rfl, debugOutput_of_append (events := [_]) rfl (by simp)⟩

theorem lineKept_complete (op : OpName) (st : Status) (res : Result) (s : State) : LineKept s (complete op st res s) :=
  ⟨rfl, rfl, debugOutput_of_append (events := [_]) rfl (by simp)⟩

theorem lineKept_readAgain (op : OpName) (s : State) : LineKept s (readAgain op s) := ⟨rfl, rfl, rfl⟩

theorem lineKept_takeCts (s : State) : LineKept s (takeCts s).2 := by
  rw [takeCts_state]
  exact ⟨rfl, rfl, rfl⟩

theorem lineKept_readerByte (b : Byte) (s : State) : LineKept s (readerByte b s) := by
  rw [readerByte_state]
  exact ⟨rfl, rfl, rfl⟩

theorem lineKept_packetRead (op : OpName) (s : State) : LineKept s (packetRead op s) := by
  unfold packetRead
  repeat' split
  exacts [lineKept_complete _ _ _ _, lineKept_goto _ _ _, lineKept_complete _ _ _ _, lineKept_goto _ _ _,
    lineKept_readAgain _ _]

theorem lineKept_afterTakeBus (op : OpName) (s : State) : LineKept s (afterTakeBus op s) := by
  unfold afterTakeBus
  split
  · exact lineKept_complete _ _ _ _
  · exact ⟨rfl, rfl, rfl⟩

theorem lineKept_beginSend (op : OpName) (s : State) : LineKept s (beginSend op s) := by
  have haccepted := (lineKept_sstate .take s).trans (lineKept_accept op .sample _)
  unfold beginSend
  simp only
  split
  · exact haccepted
  · exact haccepted.trans (lineKept_afterTakeBus op _)

theorem lineKept_sampleStep (op : OpName) (s : State) : LineKept s (sampleStep op s) := by
  unfold sampleStep
  split
  · exact (lineKept_emit (by simp) s).trans (lineKept_complete _ _ _ _)
  · have hsampled (v : Bool) := (lineKept_takeCts s).trans (lineKept_emit (e := .cts (.level v)) (by simp) _)
    simp only
    split
    · exact hsampled _
    · exact (hsampled _).trans (lineKept_goto _ _ _)

theorem lineKept_writeStep (op : OpName) (s : State) : LineKept s (writeStep op s) := by
  have hwritten := lineKept_emit (e := .tx (encodePacket s.txPacket)) (by simp) s
  unfold writeStep
  simp only
  split
  · exact hwritten.trans ⟨rfl, rfl, rfl⟩
  · exact hwritten.trans (lineKept_complete _ _ _ _)

/-- What follows an answer to an `RxRead()`. -/
theorem lineKept_readStep {op : OpName} {s : State} (hc : s.closing = 0) :
    LineKept (takeArrival s).2 (readStep op s) := by
  rw [readStep, if_neg (by simp [hc])]
  generalize takeArrival s = answer
  obtain ⟨a, s1⟩ := answer
  cases a with
  | silence =>
    have htimedOut := lineKept_emit (e := .rx .noByte) (by simp) s1
    simp only
    split
    · exact (htimedOut.trans (lineKept_forgetRx _)).trans (lineKept_complete _ _ _ _)
    · exact htimedOut
  | byte b =>
    have hread := lineKept_emit (e := .rx (.byte b)) (by simp) s1
    have htaken := hread.trans (lineKept_readerByte b _)
    simp only
    split
    · split
      · exact hread.trans (lineKept_goto _ _ _)
      · exact hread
    · split
      · split
        · exact htaken.trans (lineKept_goto _ _ _)
        · exact htaken.trans (lineKept_packetRead _ _)
      · exact htaken

/-! ## The interaction itself -/

/-- The place is one that emits a debug record. -/
def Point.records : Point → Bool
  | .debugTx | .debugNoise _ | .debugRx | .debugIgnored => true
  | .sample | .assertRts | .write | .read | .release => false

/-- What the interaction of a running operation does to RTS, to the queue and to the debug output. -/
inductive LineEffect (t : Task) (s : State) : State → Prop
  | none : LineEffect t s s
  | asserted (hp : t.point = .assertRts) : LineEffect t s (setRts true s)
  | released (hp : t.point = .release) : LineEffect t s (releaseBus s)
  | answered (hp : t.point = .read) (hc : s.closing = 0) : LineEffect t s (takeArrival s).2
  | recorded (r : DebugRecord) (hp : t.point.records = true) : LineEffect t s (emit (.dbg r) s)

/-- Beside its interaction a step of a running operation leaves the three alone. -/
theorem taskStep_lineEffect (t : Task) (s : State) : ∃ m, LineEffect t s m ∧ LineKept m (taskStep t s) := by
  obtain ⟨op, point⟩ := t
  cases point with
  | sample => exact ⟨s, .none, lineKept_sampleStep op s⟩
  | assertRts => exact ⟨_, .asserted rfl, lineKept_afterTakeBus op _⟩
  | debugTx => exact ⟨_, .recorded _ rfl, lineKept_goto op _ _⟩
  | write => exact ⟨s, .none, lineKept_writeStep op s⟩
  | read =>
    by_cases hc : s.closing = 0
    · exact ⟨_, .answered rfl hc, lineKept_readStep hc⟩
    · refine ⟨s, .none, ?_⟩
      rw [taskStep, readStep, if_pos hc]
      exact (lineKept_emit (by simp) s).trans (lineKept_complete _ _ _ _)
  | debugNoise b => exact ⟨_, .recorded _ rfl, lineKept_goto op _ _⟩
  | debugRx => exact ⟨_, .recorded _ rfl, lineKept_packetRead op _⟩
  | release => exact ⟨_, .released rfl, (lineKept_sstate .resp _).trans (lineKept_readAgain op _)⟩
  | debugIgnored => exact ⟨_, .recorded _ rfl, lineKept_readAgain op _⟩

/-! ## The places of an operation -/

/-- The places an operation can go on to from each place. -/
def Follows : Point → Point → Prop
  | .sample, q => q = .sample ∨ q = .assertRts
  | .assertRts, q => q = .debugTx ∨ q = .write
  | .debugTx, q => q = .write
  | .write, q => q = .read
  | .read, q => q = .read ∨ (∃ b, q = .debugNoise b) ∨ q = .debugRx ∨ q = .release ∨ q = .debugIgnored
  | .debugNoise _, q => q = .read
  | .debugRx, q => q = .read ∨ q = .release ∨ q = .debugIgnored
  | .release, q => q = .read
  | .debugIgnored, q => q = .read

/-- The operation has ended, or is at one of these places. -/
def GoesOn (op : OpName) (places : Point → Prop) (s : State) : Prop :=
  s.running = none ∨ ∃ p, places p ∧ s.running = some ⟨op, p⟩

theorem GoesOn.mono {op : OpName} {places places' : Point → Prop} {s : State} (h : GoesOn op places s)
    (hp : ∀ p, places p → places' p) : GoesOn op places' s :=
  h.imp_right fun ⟨p, hplace, hr⟩ => ⟨p, hp p hplace, hr⟩

theorem goesOn_afterTakeBus (op : OpName) (s : State) :
    GoesOn op (Follows .assertRts) (afterTakeBus op s) := by
  unfold afterTakeBus
  split
  · exact .inl rfl
  · split
    · exact .inr ⟨_, .inl rfl, rfl⟩
    · exact .inr ⟨_, .inr rfl, rfl⟩

theorem goesOn_packetRead (op : OpName) (s : State) : GoesOn op (Follows .debugRx) (packetRead op s) := by
  unfold packetRead
  split
  · exact .inl rfl
  · split
    · exact .inr ⟨_, .inr (.inl rfl), rfl⟩
    · split
      · exact .inl rfl
      · split
        · exact .inr ⟨_, .inr (.inr rfl), rfl⟩
        · exact .inr ⟨_, .inl rfl, rfl⟩

theorem goesOn_sampleStep {op : OpName} {s : State} (hr : s.running = some ⟨op, .sample⟩) :
    GoesOn op (Follows .sample) (sampleStep op s) := by
  unfold sampleStep
  split
  · exact .inl rfl
  · simp only
    split
    · refine .inr ⟨_, .inl rfl, ?_⟩
      rw [emit_running, takeCts_state]
      exact hr
    · exact .inr ⟨_, .inr rfl, rfl⟩

theorem goesOn_writeStep (op : OpName) (s : State) : GoesOn op (Follows .write) (writeStep op s) := by
  unfold writeStep
  simp only
  split
  · exact .inr ⟨_, rfl, rfl⟩
  · exact .inl rfl

theorem goesOn_readStep {op : OpName} {s : State} (hr : s.running = some ⟨op, .read⟩) :
    GoesOn op (Follows .read) (readStep op s) := by
  have hanswered : (takeArrival s).2.running = some ⟨op, .read⟩ := by rw [takeArrival_state]; exact hr
  unfold readStep
  split
  · exact .inl rfl
  · generalize takeArrival s = answer at hanswered ⊢
    obtain ⟨a, s1⟩ := answer
    cases a with
    | silence =>
      simp only
      split
      · exact .inl rfl
      · exact .inr ⟨_, .inl rfl, hanswered⟩
    | byte b =>
      simp only
      split
      · split
        · exact .inr ⟨_, .inr (.inl ⟨b, rfl⟩), rfl⟩
        · exact .inr ⟨_, .inl rfl, hanswered⟩
      · split
        · split
          · exact .inr ⟨_, .inr (.inr (.inl rfl)), rfl⟩
          · exact (goesOn_packetRead op _).mono fun p hp => hp.imp_right fun hp => .inr (.inr hp)
        · refine .inr ⟨_, .inl rfl, ?_⟩
          rw [readerByte_state]
          exact hanswered

/-- A step of a running operation ends it or leads to a place that can follow. -/
theorem goesOn_taskStep {t : Task} {s : State} (hr : s.running = some t) :
    GoesOn t.op (Follows t.point) (taskStep t s) := by
  obtain ⟨op, point⟩ := t
  cases point with
  | sample => exact goesOn_sampleStep hr
  | assertRts => exact goesOn_afterTakeBus op _
  | write => exact goesOn_writeStep op s
  | read => exact goesOn_readStep hr
  | debugRx => exact goesOn_packetRead op _
  | debugTx | debugNoise | release | debugIgnored => exact .inr ⟨_, rfl, rfl⟩

/-- The place where RTS is asserted follows only a sample. -/
theorem point_of_follows_assertRts {p : Point} (h : Follows p .assertRts) : p = .sample := by
  cases p <;> simp [Follows] at h ⊢

/-- A sample leads there only if it answered 0 with no CLOSE pending (R181, R199). -/
theorem sampleStep_assertRts {op : OpName} {s : State} {t : Task} (hr : s.running = some ⟨op, .sample⟩)
    (h : (sampleStep op s).running = some t) (ht : t.point = .assertRts) :
    s.closing = 0 ∧ (sampleStep op s).history = s.history ++ [.cts (.level false)] := by
  unfold sampleStep at h ⊢
  split at h
  · cases h
  · next hc =>
    have hsame : (takeCts s).2.history = s.history := by rw [takeCts_state]
    rw [if_neg hc]
    simp only at h ⊢
    cases hv : (takeCts s).1 with
    | true =>
      rw [hv, if_pos rfl, emit_running, takeCts_state, hr] at h
      cases h
      cases ht
    | false => exact ⟨not_not.mp hc, congrArg (· ++ _) hsame⟩

end Sys2Proof.Machine
end

section
/-! Rules over all steps: the history (R44), the TX packet register (R27), RTS (R186), the debug output (R43) and the
receive queue (R63). Each is a rule about the presented operations, one about the engine, and `step_cases`. -/

namespace Sys2Proof.Machine

/-! ## The history -/

theorem Kept.history_prefix {s t : State} (h : Kept s t) : s.history <+: t.history :=
  let ⟨events, he⟩ := h.history
  ⟨events, he.symm⟩

theorem kept_beginSend (op : OpName) (s : State) : Kept s (beginSend op s) := by
  have haccepted : Kept s (accept op .sample { s with sstate := .take }) :=
    ⟨rfl, rfl, rfl, rfl, rfl, rfl, rfl, [], (List.append_nil _).symm⟩
  unfold beginSend
  simp only
  split
  · exact haccepted
  · exact haccepted.trans (kept_afterTakeBus op _)

theorem proceedClose_history (n : Nat) (s : State) : (proceedClose n s).history = s.history ++ closeEvents n := by
  rw [proceedClose_state]

/-- A presented operation only adds events (R44). -/
theorem ExecCase.history_prefix {i : Instr} {s t : State} (h : ExecCase i s t) : s.history <+: t.history := by
  cases h with
  | refused | finished | built => exact List.prefix_append _ _
  | opened => exact (List.prefix_append _ [.rts false]).trans (List.prefix_append _ _)
  | closed => exact ⟨_, (proceedClose_history _ s).symm⟩
  | released => exact (kept_releaseBus s).history_prefix.trans (List.prefix_append _ _)
  | sendStarted _ _ _ p => exact (kept_beginSend _ (loadTx p s)).history_prefix
  | sendReceiveStarted _ _ _ p => exact (kept_beginSend _ (loadTx p s)).history_prefix
  | closePending | readStarted | receiveStarted | takeStarted | frameArrived => exact List.prefix_rfl

theorem engineStep_history_prefix (s : State) : s.history <+: (engineStep s).history := by
  unfold engineStep
  split
  · exact (kept_taskStep _ s).history_prefix
  · split
    · exact ⟨_, (proceedClose_history _ s).symm⟩
    · exact List.prefix_rfl

theorem fetch_history (s : State) : (fetch s).2.history = s.history := by rw [fetch_state]

/-- Settles O53: whatever is fetched, what follows begins with the history there was. -/
theorem theHistoryOnlyGrows : Obligations.TheHistoryOnlyGrows := by
  intro s t hstep
  have hfetched := fetch_history s
  suffices hprefix : s.history <+: t.history from
    let ⟨events, he⟩ := hprefix
    ⟨events, he.symm⟩
  rcases step_cases hstep with ⟨i, s', hf, hexec⟩ | ⟨s', hf, rfl⟩ | ⟨a, s', hf, rfl⟩ | ⟨s', hf, rfl⟩ | ⟨s', hf, rfl⟩ <;>
    rw [← hfetched, hf]
  · exact (exec_cases hexec).history_prefix
  · exact List.prefix_append _ _
  · exact List.prefix_rfl
  · exact List.prefix_rfl
  · exact engineStep_history_prefix s'

/-! ## The TX packet register -/

/-- Of the presented operations only the three that construct write the TX packet register. -/
theorem ExecCase.tx {i : Instr} {s t : State} (h : ExecCase i s t) :
    t.tx = s.tx ∨ (∃ src rcv cmd data, i = .build src rcv cmd data) ∨ (∃ dst cmd data, i = .send dst cmd data) ∨
      ∃ dst cmd data, i = .sendReceive dst cmd data := by
  cases h with
  | built src rcv cmd data _ hi => exact .inr (.inl ⟨src, rcv, cmd, data, hi⟩)
  | sendStarted dst cmd data _ hi => exact .inr (.inr (.inl ⟨dst, cmd, data, hi⟩))
  | sendReceiveStarted dst cmd data _ hi => exact .inr (.inr (.inr ⟨dst, cmd, data, hi⟩))
  | closed => exact .inl (by rw [proceedClose_state])
  | released => exact .inl (kept_releaseBus s).tx
  | refused | finished | opened | closePending | readStarted | receiveStarted | takeStarted | frameArrived =>
    exact .inl rfl

theorem engineStep_tx (s : State) : (engineStep s).tx = s.tx := by
  unfold engineStep
  split
  · exact (kept_taskStep _ s).tx
  · split
    · rw [proceedClose_state]
    · rfl

theorem fetch_tx (s : State) : (fetch s).2.tx = s.tx := by rw [fetch_state]

/-- Settles O51: what is fetched is one of the three operations or the reset input, or it keeps the register. -/
theorem onlyConstructionWritesTheTxRegister : Obligations.OnlyConstructionWritesTheTxRegister := by
  intro s t hstep
  have hfetched := fetch_tx s
  rcases step_cases hstep with ⟨i, s', hf, hexec⟩ | ⟨s', hf, rfl⟩ | ⟨a, s', hf, rfl⟩ | ⟨s', hf, -⟩ | ⟨s', hf, rfl⟩ <;>
    rw [hf] at hfetched ⊢
  · rcases (exec_cases hexec).tx with hkept | ⟨src, rcv, cmd, data, rfl⟩ | ⟨dst, cmd, data, rfl⟩ | ⟨dst, cmd, data, rfl⟩
    · exact .inl (hkept.trans hfetched)
    · exact .inr (.inl ⟨src, rcv, cmd, data, rfl⟩)
    · exact .inr (.inr (.inl ⟨dst, cmd, data, rfl⟩))
    · exact .inr (.inr (.inr (.inl ⟨dst, cmd, data, rfl⟩)))
  · exact .inl hfetched
  · exact .inl hfetched
  · exact .inr (.inr (.inr (.inr rfl)))
  · exact .inl ((engineStep_tx s').trans hfetched)

/-! ## The debug output -/

theorem closeEvents_no_record (n : Nat) : ∀ e ∈ closeEvents n, ∀ r, e ≠ .dbg r := by
  intro e he
  simp only [closeEvents, List.mem_flatten, List.mem_replicate] at he
  obtain ⟨l, ⟨-, rfl⟩, he⟩ := he
  simp only [List.mem_cons, List.not_mem_nil, or_false] at he
  rcases he with rfl | rfl <;> simp

theorem proceedClose_debugOutput (n : Nat) (s : State) : (proceedClose n s).debugOutput = s.debugOutput :=
  debugOutput_of_append (proceedClose_history n s) (closeEvents_no_record n)

theorem releaseBus_debugOutput (s : State) : (releaseBus s).debugOutput = s.debugOutput := by
  unfold releaseBus
  split
  · exact debugOutput_of_append (events := [_]) rfl (by simp)
  · rfl

/-- No presented operation emits a debug record in the step that takes it (R43). -/
theorem ExecCase.debugOutput {i : Instr} {s t : State} (h : ExecCase i s t) : t.debugOutput = s.debugOutput := by
  cases h with
  | refused | finished | built => exact debugOutput_of_append (events := [_]) rfl (by simp)
  | opened =>
    exact debugOutput_of_append (events := [.rts false, .done .openSession .ok .empty]) (List.append_assoc _ [_] [_])
      (by simp)
  | closed => exact proceedClose_debugOutput _ s
  | released => exact (lineKept_finish _ _ _ _).debugOutput.trans (releaseBus_debugOutput s)
  | sendStarted _ _ _ p => exact (lineKept_beginSend _ (loadTx p s)).debugOutput
  | sendReceiveStarted _ _ _ p => exact (lineKept_beginSend _ (loadTx p s)).debugOutput
  | closePending | readStarted | receiveStarted | takeStarted | frameArrived => rfl

/-- With DEBUG = 0 a running operation is at no place that emits a record. -/
theorem State.Inv.not_records {s : State} {t : Task} (hi : s.Inv) (hd : s.debug = false) (hr : s.running = some t) :
    t.point.records = false := by
  have hfits := hi.task t hr
  obtain ⟨op, point⟩ := t
  cases point with
  | debugTx | debugNoise | debugRx | debugIgnored => exact absurd hfits.1 (by simp [hd])
  | sample | assertRts | write | read | release => rfl

theorem engineStep_debugOutput {s : State} (hi : s.Inv) (hd : s.debug = false) :
    (engineStep s).debugOutput = s.debugOutput := by
  unfold engineStep
  split
  · next t hr =>
    obtain ⟨m, heffect, hkept⟩ := taskStep_lineEffect t s
    refine hkept.debugOutput.trans ?_
    cases heffect with
    | none => rfl
    | asserted => exact debugOutput_of_append (events := [_]) rfl (by simp)
    | released => exact releaseBus_debugOutput s
    | answered => rw [takeArrival_state]; rfl
    | recorded r hp => simp [hi.not_records hd hr] at hp
  · split
    · exact proceedClose_debugOutput _ s
    · rfl

theorem fetch_debug (s : State) : (fetch s).2.debug = s.debug := by rw [fetch_state]; rfl

theorem fetch_debugOutput (s : State) : (fetch s).2.debugOutput = s.debugOutput := by rw [fetch_state]; rfl

/-- Settles O48: by the invariant the running operation is at no place that emits a record, and nothing else emits
one. -/
theorem noDebugRecordWithoutDebug : Obligations.NoDebugRecordWithoutDebug := by
  intro s t hinv hdebug hstep
  have hfetched := fetch_debugOutput s
  have hinv' := inv_fetch hinv
  have hdebug' := (fetch_debug s).trans hdebug
  rcases step_cases hstep with ⟨i, s', hf, hexec⟩ | ⟨s', hf, rfl⟩ | ⟨a, s', hf, rfl⟩ | ⟨s', hf, rfl⟩ | ⟨s', hf, rfl⟩ <;>
    rw [hf] at hfetched hinv' hdebug' <;> refine Eq.trans ?_ hfetched
  · exact (exec_cases hexec).debugOutput
  · exact (lineKept_finish _ _ _ _).debugOutput
  · rfl
  · rfl
  · exact engineStep_debugOutput hinv' hdebug'

/-! ## RTS -/

/-- CLOSEs that proceed, at least one of them (R198). -/
theorem proceedClose_of_ne_zero {n : Nat} (hn : n ≠ 0) (s : State) :
    proceedClose n s =
      { s with
        rts := false, sess := .closed, sstate := .idle, closing := 0, rxIn := [], lastSt := .ok, result := .empty,
        history := s.history ++ closeEvents n } := by
  obtain ⟨m, rfl⟩ := Nat.exists_eq_succ_of_ne_zero hn
  exact closeEach_succ m _

theorem releaseBus_rts (s : State) : (releaseBus s).rts = s.rts ∨ (releaseBus s).rts = false := by
  unfold releaseBus
  split
  exacts [.inr rfl, .inl rfl]

/-- A presented operation deasserts RTS where it ends the session or is RELEASE_BUS, and does not assert it; OPEN finds
it deasserted (R186). -/
theorem ExecCase.rts {i : Instr} {s t : State} (h : ExecCase i s t) (hi : s.Inv) :
    t.rts = s.rts ∨ (t.rts = false ∧ (t.sess = .closed ∨ i = .releaseBus)) := by
  cases h with
  | opened _ _ _ _ hclosed =>
    have hrts : s.rts = false := Bool.eq_false_iff.mpr fun hrts => by simp [(hi.rtsHeld hrts).1] at hclosed
    exact .inl hrts.symm
  | closed =>
    rw [proceedClose_of_ne_zero (Nat.succ_ne_zero _)]
    exact .inr ⟨rfl, .inl rfl⟩
  | released hr => exact (releaseBus_rts s).imp_right fun hrts => ⟨hrts, .inr hr⟩
  | sendStarted _ _ _ p => exact .inl (lineKept_beginSend _ (loadTx p s)).rts
  | sendReceiveStarted _ _ _ p => exact .inl (lineKept_beginSend _ (loadTx p s)).rts
  | refused | finished | built | closePending | readStarted | receiveStarted | takeStarted | frameArrived =>
    exact .inl rfl

/-- The engine asserts RTS at the end of TakeBus, and deasserts it at the release after an echo or with a CLOSE. -/
theorem engineStep_rts (s : State) :
    (engineStep s).rts = s.rts ∨
      ((engineStep s).rts = true ∧ ∃ op, s.running = some ⟨op, .assertRts⟩) ∨
      ((engineStep s).rts = false ∧ ((engineStep s).sess = .closed ∨ ∃ op, s.running = some ⟨op, .release⟩)) := by
  unfold engineStep
  split
  · next t hr =>
    obtain ⟨m, heffect, hkept⟩ := taskStep_lineEffect t s
    obtain ⟨op, point⟩ := t
    rw [hkept.rts, hr]
    cases heffect with
    | none => exact .inl rfl
    | asserted hp =>
      obtain rfl : point = .assertRts := hp
      exact .inr (.inl ⟨rfl, op, rfl⟩)
    | released hp =>
      obtain rfl : point = .release := hp
      exact (releaseBus_rts s).imp_right fun hrts => .inr ⟨hrts, .inr ⟨op, rfl⟩⟩
    | answered => rw [takeArrival_state]; exact .inl rfl
    | recorded => exact .inl rfl
  · split
    · next hc =>
      rw [proceedClose_of_ne_zero hc]
      exact .inr (.inr ⟨rfl, .inl rfl⟩)
    · exact .inl rfl

theorem fetch_rts (s : State) : (fetch s).2.rts = s.rts := by rw [fetch_state]

theorem fetch_running (s : State) : (fetch s).2.running = s.running := by rw [fetch_state]

theorem fetch_closing (s : State) : (fetch s).2.closing = s.closing := by rw [fetch_state]

/-- Who changes RTS in a step (R186). -/
theorem step_rts {s t : State} (hi : s.Inv) (h : step s = .next t) :
    t.rts = s.rts ∨
      (t.rts = true ∧ ∃ op, s.running = some ⟨op, .assertRts⟩) ∨
      (t.rts = false ∧ (t.sess = .closed ∨ (fetch s).1 = .operation .releaseBus ∨
        ∃ op, s.running = some ⟨op, .release⟩)) := by
  have hinv := inv_fetch hi
  have hrts := fetch_rts s
  have hrunning := fetch_running s
  rcases step_cases h with ⟨i, s', hf, hexec⟩ | ⟨s', hf, rfl⟩ | ⟨a, s', hf, rfl⟩ | ⟨s', hf, rfl⟩ | ⟨s', hf, rfl⟩ <;>
    rw [hf] at hinv hrts hrunning ⊢ <;> rw [← hrts, ← hrunning]
  · rcases (exec_cases hexec).rts hinv with hkept | ⟨hfalls, hclosed | rfl⟩
    · exact .inl hkept
    · exact .inr (.inr ⟨hfalls, .inl hclosed⟩)
    · exact .inr (.inr ⟨hfalls, .inr (.inl rfl)⟩)
  · exact .inl rfl
  · exact .inl rfl
  · exact .inr (.inr ⟨rfl, .inl rfl⟩)
  · exact (engineStep_rts s').imp_right (Or.imp_right (And.imp_right (Or.imp_right .inr)))

/-! ## The way to the place where RTS is asserted -/

/-- A presented operation starts at no place but its first, and only where none runs. -/
theorem ExecCase.running {i : Instr} {s t : State} (h : ExecCase i s t) :
    t.running = s.running ∨ (s.running = none ∧ ∃ op p, p ≠ .assertRts ∧ t.running = some ⟨op, p⟩) := by
  have hsend (op : OpName) (p : Packet) (hq : s.running = none) :
      (beginSend op (loadTx p s)).running = s.running ∨
        (s.running = none ∧ ∃ op' q, q ≠ .assertRts ∧ (beginSend op (loadTx p s)).running = some ⟨op', q⟩) := by
    unfold beginSend
    simp only
    split
    · exact .inr ⟨hq, op, .sample, by simp, rfl⟩
    · rcases goesOn_afterTakeBus op (accept op .sample { loadTx p s with sstate := .take }) with hended | ⟨q, hq', hr⟩
      · exact .inl (hended.trans hq.symm)
      · exact .inr ⟨hq, op, q, fun hassert => by simp [hassert, Follows] at hq', hr⟩
  cases h with
  | closed => exact .inl (by rw [proceedClose_state])
  | released => exact .inl (releaseBus_running s)
  | readStarted _ _ hq => exact .inr ⟨hq, .readPacket, .read, by simp, rfl⟩
  | receiveStarted _ _ hq => exact .inr ⟨hq, .receive, .read, by simp, rfl⟩
  | takeStarted _ _ hq => exact .inr ⟨hq, .takeBus, .sample, by simp, rfl⟩
  | sendStarted _ _ _ p _ _ hq => exact hsend _ p hq
  | sendReceiveStarted _ _ _ p _ _ hq => exact hsend _ p hq
  | refused | finished | built | opened | closePending | frameArrived => exact .inl rfl

/-- The engine enters that place only by a sample that answered 0. -/
theorem engineStep_assertRts {s : State} {op : OpName} (h : (engineStep s).running = some ⟨op, .assertRts⟩) :
    s.running = some ⟨op, .sample⟩ ∧ s.closing = 0 ∧
      (engineStep s).history = s.history ++ [.cts (.level false)] := by
  unfold engineStep at h ⊢
  split at h
  · next t hr =>
    obtain ⟨op', point⟩ := t
    rcases goesOn_taskStep hr with hended | ⟨p, hfollows, hr'⟩
    · simp [hended] at h
    · obtain ⟨rfl, rfl⟩ : op' = op ∧ p = .assertRts := by simpa [hr'] using h
      obtain rfl : point = .sample := point_of_follows_assertRts hfollows
      exact ⟨hr, sampleStep_assertRts hr h rfl⟩
  · next hr =>
    split at h
    · rw [proceedClose_state, hr] at h
      cases h
    · rw [hr] at h
      cases h

/-- A step that leads to that place finds the operation there, or samples CTS as 0. -/
theorem step_assertRts {s t : State} {op : OpName} (h : step s = .next t)
    (ht : t.running = some ⟨op, .assertRts⟩) :
    s.running = some ⟨op, .assertRts⟩ ∨
      (s.running = some ⟨op, .sample⟩ ∧ s.closing = 0 ∧ t.history = s.history ++ [.cts (.level false)]) := by
  have hrunning := fetch_running s
  have hclosing := fetch_closing s
  have hhistory := fetch_history s
  rcases step_cases h with ⟨i, s', hf, hexec⟩ | ⟨s', hf, rfl⟩ | ⟨a, s', hf, rfl⟩ | ⟨s', hf, rfl⟩ | ⟨s', hf, rfl⟩ <;>
    rw [hf] at hrunning hclosing hhistory <;> rw [← hrunning, ← hclosing, ← hhistory]
  · rcases (exec_cases hexec).running with hsame | ⟨-, op', p, hp, hr⟩
    · exact .inl (hsame.symm.trans ht)
    · rw [ht] at hr
      cases hr
      exact absurd rfl hp
  · exact .inl ht
  · exact .inl ht
  · cases ht
  · exact .inr (engineStep_assertRts ht)

/-- Settles O30: the rules about RTS and about the place where it is asserted, with the operations that the invariant
allows at those places. -/
theorem rtsChangesOnlyWhereTheSpecSays : Obligations.RtsChangesOnlyWhereTheSpecSays := by
  intro s t hinv hstep
  have hchange := step_rts hinv hstep
  refine ⟨fun hlow hhigh => ?_, fun hhigh hlow => ?_, fun op ht => step_assertRts hstep ht⟩
  · rcases hchange with hsame | ⟨-, op, hr⟩ | ⟨hfalls, -⟩
    · simp [hsame, hlow] at hhigh
    · obtain ⟨harb, ⟨hop, -⟩ | ⟨hop, -⟩⟩ := hinv.task _ hr
      · exact ⟨harb, op, hr, .inl hop⟩
      · exact ⟨harb, op, hr, .inr hop⟩
    · simp [hfalls] at hhigh
  · rcases hchange with hsame | ⟨hrises, -⟩ | ⟨-, hclosed | hrelease | ⟨op, hr⟩⟩
    · simp [hsame, hhigh] at hlow
    · simp [hrises] at hlow
    · exact .inl hclosed
    · exact .inr (.inl hrelease)
    · exact .inr (.inr ⟨op, hr, (hinv.task _ hr).1⟩)

/-! ## The receive queue -/

theorem releaseBus_rxIn (s : State) : (releaseBus s).rxIn = s.rxIn := by
  unfold releaseBus
  split <;> rfl

/-- Of the presented operations a frame joins the queue, and a CLOSE that ends an open session empties it. -/
theorem ExecCase.rxIn {i : Instr} {s t : State} (h : ExecCase i s t) :
    t.rxIn = s.rxIn ∨
      (∃ len src rcv cmd payload check, i = .frame len src rcv cmd payload check ∧
        t.rxIn = s.rxIn ++ arriving ([0x3B, len, src, rcv, cmd] ++ payload ++ [check])) ∨
      (i = .closeSession ∧ s.running = none ∧ s.sess = .opened ∧ t.sess = .closed ∧ t.rxIn = []) := by
  cases h with
  | frameArrived len src rcv cmd payload check hi =>
    exact .inr (.inl ⟨len, src, rcv, cmd, payload, check, hi, rfl⟩)
  | closed hi ho hq =>
    rw [proceedClose_of_ne_zero (Nat.succ_ne_zero _)]
    exact .inr (.inr ⟨hi, hq, ho, rfl, rfl⟩)
  | released => exact .inl (releaseBus_rxIn s)
  | sendStarted _ _ _ p => exact .inl (lineKept_beginSend _ (loadTx p s)).rxIn
  | sendReceiveStarted _ _ _ p => exact .inl (lineKept_beginSend _ (loadTx p s)).rxIn
  | refused | finished | built | opened | closePending | readStarted | receiveStarted | takeStarted => exact .inl rfl

/-- An answer is the queue's first, or a free one where nothing is queued (R38). -/
theorem takeArrival_rxIn (s : State) :
    (takeArrival s).2.rxIn = s.rxIn ∨ ∃ a, s.rxIn = a :: (takeArrival s).2.rxIn := by
  unfold takeArrival
  split
  · next a rest hs => exact .inr ⟨a, hs⟩
  · next hs => exact .inl rfl

/-- The engine takes at most one answer, in an `RxRead()`, and empties the queue only with a pending CLOSE. -/
theorem engineStep_rxIn {s : State} (hi : s.Inv) :
    (engineStep s).rxIn = s.rxIn ∨
      (∃ op a, s.running = some ⟨op, .read⟩ ∧ s.closing = 0 ∧ s.rxIn = a :: (engineStep s).rxIn) ∨
      (s.running = none ∧ s.sess = .opened ∧ (engineStep s).sess = .closed ∧ (engineStep s).rxIn = [] ∧
        s.closing ≠ 0) := by
  unfold engineStep
  split
  · next t hr =>
    obtain ⟨m, heffect, hkept⟩ := taskStep_lineEffect t s
    obtain ⟨op, point⟩ := t
    rw [hkept.rxIn]
    cases heffect with
    | none => exact .inl rfl
    | asserted => exact .inl rfl
    | released => exact .inl (releaseBus_rxIn s)
    | answered hp hc =>
      obtain rfl : point = .read := hp
      exact (takeArrival_rxIn s).imp_right fun ⟨a, hs⟩ => .inl ⟨op, a, hr, hc, hs⟩
    | recorded => exact .inl rfl
  · next hr =>
    split
    · next hc =>
      rw [proceedClose_of_ne_zero hc]
      exact .inr (.inr ⟨hr, hi.closingOpen hc, rfl, rfl, hc⟩)
    · exact .inl rfl

theorem fetch_rxIn (s : State) : (fetch s).2.rxIn = s.rxIn := by rw [fetch_state]

/-- Settles O52: the rules about the presented operations and the engine, and that arrivals join at the end. -/
theorem theReceiveQueueIsNeverFlushed : Obligations.TheReceiveQueueIsNeverFlushed := by
  intro s t hinv hstep
  have hinv' := inv_fetch hinv
  have hqueue := fetch_rxIn s
  have hrunning := fetch_running s
  have hclosing := fetch_closing s
  have hsess := fetch_sess s
  rcases step_cases hstep with ⟨i, s', hf, hexec⟩ | ⟨s', hf, rfl⟩ | ⟨a, s', hf, rfl⟩ | ⟨s', hf, rfl⟩ | ⟨s', hf, rfl⟩ <;>
    rw [hf] at hinv' hqueue hrunning hclosing hsess ⊢ <;> rw [← hqueue, ← hrunning, ← hclosing, ← hsess]
  · rcases (exec_cases hexec).rxIn with hsame | ⟨len, src, rcv, cmd, payload, check, rfl, hjoined⟩ |
      ⟨rfl, hr, ho, hclosed, hempty⟩
    · exact .inl hsame
    · exact .inr (.inr (.inl ⟨len, src, rcv, cmd, payload, check, rfl, hjoined⟩))
    · exact .inr (.inr (.inr (.inr ⟨hr, ho, hclosed, hempty, .inl rfl⟩)))
  · exact .inl rfl
  · exact .inr (.inl ⟨a, rfl, rfl⟩)
  · exact .inl rfl
  · rcases engineStep_rxIn hinv' with hsame | hread | ⟨hr, ho, hclosed, hempty, hc⟩
    · exact .inl hsame
    · exact .inr (.inr (.inr (.inl hread)))
    · exact .inr (.inr (.inr (.inr ⟨hr, ho, hclosed, hempty, .inr ⟨rfl, hc⟩⟩)))

end Sys2Proof.Machine
end

section
/-! CLOSE and the operation it finds (R199, R200): its acceptance, the abort of an operation that waits, the steps an
operation still takes until then, and the order of what is issued after it (R73). -/

namespace Sys2Proof.Machine

/-! ## Acceptance and completion -/

/-- While an operation runs CLOSE is accepted and waits (R199). -/
theorem exec_closeSession_of_busy {s : State} (ho : s.sess = .opened) (hb : s.busy = true) :
    exec .closeSession s = .next { s with closing := s.closing + 1, result := .empty } := by
  have hadmitted : admitted .closeSession s = true := by simp [admitted, ho]
  rw [exec, execClose, if_pos hadmitted, hb]
  rfl

theorem engineStep_of_running {s : State} {t : Task} (hr : s.running = some t) : engineStep s = taskStep t s := by
  simp only [engineStep, hr]

/-- With no operation running the engine completes the pending CLOSEs (R199, log entry 16). -/
theorem engineStep_of_closeIsNext {s : State} (hr : s.running = none) (hc : s.closing ≠ 0) :
    engineStep s = proceedClose s.closing s := by
  simp only [engineStep, hr]
  exact if_pos hc

/-- Settles O24: accepted while an operation runs, and otherwise as many CLOSEs as there are proceed. -/
theorem everyCloseIsAcceptedAndCompletes : Obligations.EveryCloseIsAcceptedAndCompletes := by
  intro s
  refine ⟨exec_closeSession_of_busy, fun ho hb => ?_, fun hinputs hb hc => ?_⟩
  · rw [exec_closeSession_of_idle ho hb, proceedClose_of_ne_zero (Nat.succ_ne_zero _)]
  · rw [step_engine hinputs, engineStep_of_closeIsNext (busy_eq_false_iff.mp hb) hc, proceedClose_of_ne_zero hc]

/-! ## The abort of an operation that waits -/

/-- With a CLOSE pending a sample or a read answers `Closed`, and the operation ends (R199, R240). -/
theorem taskStep_aborted {s : State} {op : OpName} {point : Point} (hp : point = .sample ∨ point = .read)
    (hc : s.closing ≠ 0) :
    taskStep ⟨op, point⟩ s =
      complete op .aborted .empty (emit (if point = .sample then .cts .closed else .rx .closed) s) := by
  rcases hp with rfl | rfl
  · exact if_pos hc
  · exact if_pos hc

/-- Settles O23: the acceptance, the answer `Closed`, and the one pending CLOSE. -/
theorem closeAbortsAWaitingOperation : Obligations.CloseAbortsAWaitingOperation := by
  intro s op point hinv hr hp hc hinputs
  have ho : s.sess = .opened := hinv.opened_of_running hr
  have haccepted := exec_closeSession_of_busy ho (by simp [State.busy, hr])
  rw [hc] at haccepted
  have haborted : step { s with closing := 1, result := .empty } = _ :=
    step_task hinputs hr (taskStep_aborted hp Nat.one_ne_zero)
  refine ⟨_, _, _, haccepted, rfl, haborted, rfl, ?_, step_engine hinputs, rfl⟩
  have hstatus (t : State) (hopened : t.sess = .opened) (hidle : t.running = none) (hlast : t.lastSt = .aborted) :
      t.statusByte = 0x11 := by
    rw [State.statusByte, State.busy, hopened, hidle, hlast]
    rfl
  exact hstatus _ ho rfl rfl

/-! ## The end of any operation -/

/-- How many more steps an operation takes before it next samples or reads, or ends. -/
def Point.stepsToWait : Point → Nat
  | .sample | .read => 0
  | .write | .debugNoise _ | .release | .debugIgnored => 1
  | .debugTx | .debugRx => 2
  | .assertRts => 3

theorem stepsToWait_of_follows {p q : Point} (h : Follows p q) (hp : p ≠ .sample) (hp' : p ≠ .read) :
    q.stepsToWait < p.stepsToWait := by
  cases p with
  | sample => exact absurd rfl hp
  | read => exact absurd rfl hp'
  | assertRts => rcases h with rfl | rfl <;> decide
  | debugRx => rcases h with rfl | rfl | rfl <;> simp [Point.stepsToWait]
  | debugTx | write | debugNoise | release | debugIgnored => obtain rfl := h; simp [Point.stepsToWait]

/-- With a CLOSE pending an operation ends at its next sample or read, or before (R199, log entry 15). -/
theorem runs_to_end {s : State} {t : Task} (h : s.inputs = []) (hc : s.closing ≠ 0) (hr : s.running = some t) :
    ∃ k u, k ≤ t.point.stepsToWait + 1 ∧ Runs k s u ∧ u.running = none ∧ Kept s u := by
  induction hn : t.point.stepsToWait using Nat.strong_induction_on generalizing s t with
  | _ n ih =>
    have hstep := step_task h hr rfl
    have hkept := kept_taskStep t s
    by_cases hwaits : t.point = .sample ∨ t.point = .read
    · refine ⟨1, _, Nat.le_add_left 1 n, runs_one hstep, ?_, hkept⟩
      rw [taskStep_aborted hwaits hc]
      rfl
    · obtain ⟨hsample, hread⟩ := not_or.mp hwaits
      rcases goesOn_taskStep hr with hended | ⟨p, hfollows, hr'⟩
      · exact ⟨1, _, Nat.le_add_left 1 n, runs_one hstep, hended, hkept⟩
      · have hless : p.stepsToWait < n := hn ▸ stepsToWait_of_follows hfollows hsample hread
        obtain ⟨k, u, hk, hrun, hended, hkept'⟩ :=
          ih _ hless (hkept.inputs.trans h) (hkept.closing.symm ▸ hc) hr' rfl
        exact ⟨k + 1, u, by omega, runs_succ hstep hrun, hended, hkept.trans hkept'⟩

theorem stepsToWait_le (p : Point) : p.stepsToWait ≤ 3 := by
  cases p <;> simp [Point.stepsToWait]

/-- Settles O26: the operation ends within four steps, and the pending CLOSEs complete in the next one. -/
theorem closeEndsEveryOperation : Obligations.CloseEndsEveryOperation := by
  intro s hinv hrunning hinputs
  obtain ⟨t, hr⟩ := Option.ne_none_iff_exists'.mp hrunning
  have haccepted := exec_closeSession_of_busy (hinv.opened_of_running hr) (by simp [State.busy, hr])
  obtain ⟨k, u, hk, hrun, hended, hkept⟩ :=
    runs_to_end (s := { s with closing := s.closing + 1, result := .empty }) hinputs (Nat.succ_ne_zero _) hr
  have hclosing : u.closing = s.closing + 1 := hkept.closing
  have hpending : u.closing ≠ 0 := by omega
  have hclose : step u = .next (proceedClose u.closing u) := by
    rw [step_engine (hkept.inputs.trans hinputs), engineStep_of_closeIsNext hended hpending]
  rw [proceedClose_of_ne_zero hpending, hclosing] at hclose
  have hbound := stepsToWait_le t.point
  exact ⟨_, k + 1, _, haccepted, by omega, runs_trans hrun (runs_one hclose), rfl, hended, rfl, rfl, rfl, rfl,
    u.history, rfl⟩

/-! ## The order of operations -/

/-- An operation issued where the CLOSE is the next to proceed leaves the step to it (R73). -/
theorem step_of_waiting {s : State} {what : Stimulus} {later : List Input} {i : Instr}
    (h : s.inputs = { timing := .after 0, what := what } :: later) (hi : interpret what = .operation i)
    (hissued : issuedByHost i = true) (hr : s.running = none) (hc : s.closing ≠ 0) :
    step s = .next (proceedClose s.closing s) := by
  have hwaits : waitsForClose (interpret what) s = true := by
    rw [hi]
    exact waitsForClose_operation.mpr ⟨hissued, hr, hc⟩
  rw [step, fetch_waiting h hwaits]
  exact congrArg _ (engineStep_of_closeIsNext hr hc)

/-- With no CLOSE pending what is due runs (R6). -/
theorem step_of_due {s : State} {what : Stimulus} {later : List Input} {i : Instr}
    (h : s.inputs = { timing := .after 0, what := what } :: later) (hi : interpret what = .operation i)
    (hn : s.running ≠ none ∨ s.closing = 0 ∨ issuedByHost i = false) :
    step s = exec i { s with inputs := later } := by
  have hnow : waitsForClose (interpret what) s = false := by
    rw [hi, Bool.eq_false_iff, Ne, waitsForClose_operation]
    rintro ⟨hissued, hr, hc⟩
    rcases hn with hn | hn | hn
    · exact hn hr
    · exact hc hn
    · simp [hn] at hissued
  rw [step, fetch_now h hnow, hi]

/-- What no host issues runs nothing: it is refused, or it is a frame that arrives (R105). -/
theorem exec_of_notIssued {i : Instr} (h : issuedByHost i = false) (s : State) :
    (∃ op, exec i s = .next (s.ended op .refused .empty)) ∨ ∃ arrivals, exec i s = .next (deliver arrivals s) := by
  have hsel {sel : Byte} (hlow : decide (sel.toNat < 2) = false) : 2 ≤ sel.toNat :=
    Nat.not_lt.mp (of_decide_eq_false hlow)
  cases i with
  | encode sel => exact .inl ((alwaysRefused_reservedSel (hsel h) (.inl rfl)).2.imp fun _ hop => hop s)
  | checksumValid sel => exact .inl ((alwaysRefused_reservedSel (hsel h) (.inr (.inl rfl))).2.imp fun _ hop => hop s)
  | describe sel => exact .inl ((alwaysRefused_reservedSel (hsel h) (.inr (.inr rfl))).2.imp fun _ hop => hop s)
  | reserved0D | reserved0E | reserved0F => exact .inl ⟨.reserved, rfl⟩
  | frame => exact .inr ⟨_, rfl⟩
  | openSession | closeSession | build | intTo3Bytes | readPacket | takeBus | releaseBus | send | receive
  | sendReceive => cases h

/-- A step with a CLOSE next to proceed starts nothing, and adds the events of the CLOSEs, or one refusal, or none. -/
theorem step_of_closeIsNext {s t : State} (hr : s.running = none) (hc : s.closing ≠ 0) (h : step s = .next t) :
    t.running = none ∧
      (t.history = s.history ∨ t.history = s.history ++ closeEvents s.closing ∨
        ∃ op, t.history = s.history ++ [.done op .refused .empty]) := by
  have hrunning := (fetch_running s).trans hr
  have hclosing := fetch_closing s
  have hhistory := fetch_history s
  rcases step_cases h with ⟨i, s', hf, hexec⟩ | ⟨s', hf, rfl⟩ | ⟨a, s', hf, rfl⟩ | ⟨s', hf, rfl⟩ | ⟨s', hf, rfl⟩ <;>
    rw [hf] at hrunning hclosing hhistory <;> rw [← hhistory, ← hclosing]
  · rcases exec_of_notIssued (fetch_closeIsNext hr hc hf) s' with ⟨op, hrefused⟩ | ⟨a, harrived⟩
    · cases hrefused.symm.trans hexec
      exact ⟨hrunning, .inr (.inr ⟨op, rfl⟩)⟩
    · cases harrived.symm.trans hexec
      exact ⟨hrunning, .inl rfl⟩
  · exact ⟨hrunning, .inr (.inr ⟨.reserved, rfl⟩)⟩
  · exact ⟨hrunning, .inl rfl⟩
  · exact ⟨rfl, .inl rfl⟩
  · rw [engineStep_of_closeIsNext hrunning (hclosing ▸ hc), proceedClose_state]
    exact ⟨hrunning, .inr (.inl rfl)⟩

/-- A step from a running operation leads to no other operation. -/
theorem step_keeps_operation {s t : State} {before task : Task} (hr : s.running = some before)
    (h : step s = .next t) (ht : t.running = some task) : before.op = task.op := by
  have hrunning := (fetch_running s).trans hr
  rcases step_cases h with ⟨i, s', hf, hexec⟩ | ⟨s', hf, rfl⟩ | ⟨a, s', hf, rfl⟩ | ⟨s', hf, rfl⟩ | ⟨s', hf, rfl⟩ <;>
    rw [hf] at hrunning
  · rcases (exec_cases hexec).running with hsame | ⟨hnone, -⟩
    · cases (hsame.trans hrunning).symm.trans ht
      rfl
    · cases hrunning.symm.trans hnone
  · cases hrunning.symm.trans ht
    rfl
  · cases hrunning.symm.trans ht
    rfl
  · cases ht
  · rw [engineStep_of_running hrunning] at ht
    rcases goesOn_taskStep hrunning with hended | ⟨p, -, hr'⟩
    · cases hended.symm.trans ht
    · cases hr'.symm.trans ht
      rfl

/-- What the host presents as an operation. -/
theorem interpret_operation {what : Stimulus} {i : Instr}
    (h : (∃ bytes surplus, what = .command bytes ∧ decodeCommand bytes = .ok (i, surplus)) ∨ what = .call i) :
    interpret what = .operation i := by
  rcases h with ⟨bytes, surplus, rfl, hdecode⟩ | rfl
  · simp only [interpret, hdecode]
  · rfl

/-- Settles O25: the step is the CLOSE's and the next one the operation's; and while a CLOSE is pending nothing
starts. -/
theorem anEarlierCloseRunsFirst : Obligations.AnEarlierCloseRunsFirst := by
  refine ⟨fun s what later i hinputs hwhat hissued hr hc => ?_, fun s t hc hstep => ⟨fun hr => ?_, fun task ht => ?_⟩⟩
  · have hi := interpret_operation hwhat
    have hclose := step_of_waiting hinputs hi hissued hr hc
    rw [proceedClose_of_ne_zero hc] at hclose
    exact ⟨_, hclose, rfl, step_of_due hinputs hi (.inr (.inl rfl))⟩
  · exact step_of_closeIsNext hr hc hstep
  · cases hr : s.running with
    | none => cases (step_of_closeIsNext hr hc hstep).1.symm.trans ht
    | some before => exact ⟨before, rfl, step_keeps_operation hr hstep ht⟩

end Sys2Proof.Machine
end

section
/-! One step, by what is presented (R6, R63, R101, R105, R261): an operation, bytes on the receive line, the reset
input, or nothing; and that every step has a next state (R244). -/

namespace Sys2Proof.Machine

/-! ## What is presented -/

/-- Bytes that are exactly one frame are a FRAME (R90). -/
theorem frame_of_decodeFrame {bytes rest : List Byte} {i : Instr} (h : decodeFrame bytes = .ok (i, rest)) :
    ∃ len src rcv cmd payload check, i = .frame len src rcv cmd payload check := by
  unfold decodeFrame at h
  split at h
  · split at h
    · cases h
    · split at h
      · cases h
        exact ⟨_, _, _, _, _, _, rfl⟩
      · cases h
  · cases h
  · cases h

/-- An input that is due only on idle is presented in a quiet block (R274). -/
theorem fetch_onIdle_of_quiet {s : State} {what : Stimulus} {later : List Input}
    (h : s.inputs = { timing := .onIdle, what := what } :: later) (hq : s.quiet) :
    fetch s = (interpret what, { s with inputs := later }) := by
  have hidle : s.occupied = false := quiet_iff_not_occupied.mp hq
  simp [fetch, h, hidle]

/-- Settles O6: the stimulus is that operation, and it is fetched in either timing. -/
theorem stepRunsThePresentedOperation : Obligations.StepRunsThePresentedOperation := by
  rintro s ⟨timing, what⟩ later i hinputs htiming hwhat
  have hi : interpret what = .operation i := by
    rcases hwhat with hcommand | hcall | ⟨bytes, hwire, hdecode⟩
    · exact interpret_operation (.inl hcommand)
    · exact interpret_operation (.inr hcall)
    · obtain rfl : what = .wire bytes := hwire
      simp only [interpret, hdecode]
  rcases htiming with ⟨hnow, hfree⟩ | ⟨hidle, hquiet⟩
  · obtain rfl : timing = .after 0 := hnow
    exact step_of_due hinputs hi hfree
  · obtain rfl : timing = .onIdle := hidle
    rw [step, fetch_onIdle_of_quiet hinputs hquiet, hi]

/-- Settles O7: nothing is fetched, so the engine's step is taken; it does nothing in a quiet block. -/
theorem stepWithNothingPresentedIsTheEngine : Obligations.StepWithNothingPresentedIsTheEngine := by
  refine fun s => ⟨step_engine, fun n what later hinputs => ?_, fun what later hinputs hbusy => ?_,
    fun hinputs hquiet => ?_⟩
  · simp only [step, fetch, hinputs]
  · have hoccupied : s.occupied = true := by
      rw [← Bool.not_eq_false, ← quiet_iff_not_occupied]
      exact hbusy
    simp only [step, fetch, hinputs, hoccupied, if_true]
  · obtain ⟨hr, hc⟩ := hquiet
    have hstays : engineStep s = s := by simp [engineStep, hr, hc]
    rw [step_engine hinputs, hstays]

/-- Arrivals that are due now join the queue in this step, pending CLOSEs or not. -/
theorem step_of_arrivals {s : State} {what : Stimulus} {later : List Input} {arrivals : List Arrival}
    (h : s.inputs = { timing := .after 0, what := what } :: later) (hi : interpret what = .arrivals arrivals) :
    step s = .next (deliver arrivals { s with inputs := later }) := by
  have hnow : waitsForClose (interpret what) s = false := by rw [hi, waitsForClose_arrivals]
  rw [step, fetch_now h hnow, hi]

/-- Settles O54: FRAME delivers the bytes of the frame. -/
theorem frameJoinsTheReceiveQueue : Obligations.FrameJoinsTheReceiveQueue := fun _ _ _ _ _ _ _ => rfl

/-- Settles O8: the bytes of a frame are those that came in, so as a frame or as bytes they arrive in order. -/
theorem wireBytesArriveInOrder : Obligations.WireBytesArriveInOrder := by
  intro s bytes later hinputs
  cases hdecode : decodeFrame bytes with
  | error e => exact step_of_arrivals hinputs (by simp only [interpret, hdecode, arriving])
  | ok decoded =>
    obtain ⟨i, rest⟩ := decoded
    cases rest with
    | cons b rest => exact step_of_arrivals hinputs (by simp only [interpret, hdecode, arriving])
    | nil =>
      obtain ⟨len, src, rcv, cmd, payload, check, rfl⟩ := frame_of_decodeFrame hdecode
      have hi : interpret (.wire bytes) = .operation (.frame len src rcv cmd payload check) := by
        simp only [interpret, hdecode]
      have hbytes := encode_of_decodeFrame hdecode
      rw [step_of_due hinputs hi (.inr (.inr rfl)), frameJoinsTheReceiveQueue, hbytes, List.append_nil]
      rfl

/-- Settles O10: such a word is a reserved command. -/
theorem undecodableCommandsAreRefused : Obligations.UndecodableCommandsAreRefused :=
  fun _ _ _ _ hinputs hdecode => step_of_undecodable hinputs hdecode

/-- Settles O55: each of the three is refused. -/
theorem reservedCodesCompleteRefused : Obligations.ReservedCodesCompleteRefused := fun _ => ⟨rfl, rfl, rfl⟩

/-- Settles O2: the reset input waits for no CLOSE, and resets the block alone. -/
theorem resetAbandonsTheRunningOperation : Obligations.ResetAbandonsTheRunningOperation := by
  intro s later hinputs
  have hstep : step s = .next (resetBlock { s with inputs := later }) := by
    rw [step, fetch_now hinputs (waitsForClose_reset s)]
    rfl
  exact ⟨_, hstep, rfl, rfl, rfl, rfl, rfl, rfl, rfl, rfl⟩

/-! ## Every step has a next state -/

/-- Admitted or refused, there is a next state. -/
theorem ite_next (c : Prop) [Decidable c] (t u : State) :
    ∃ v, (if c then .next t else .next u : Host.Outcome State Fault Refusal) = .next v := by
  split <;> exact ⟨_, rfl⟩

theorem execSendLike_next (op : OpName) (dst cmd : Int) (data : List Int) (s : State) :
    ∃ t, execSendLike op dst cmd data s = .next t := by
  unfold execSendLike
  split
  · split <;> exact ⟨_, rfl⟩
  · exact ⟨_, rfl⟩

theorem exec_next (i : Instr) (s : State) : ∃ t, exec i s = .next t := by
  cases i with
  | send dst cmd data => exact execSendLike_next .send dst cmd data s
  | sendReceive dst cmd data => exact execSendLike_next .sendReceive dst cmd data s
  | reserved0D | reserved0E | reserved0F | frame => exact ⟨_, rfl⟩
  | openSession | closeSession | build | encode | checksumValid | describe | intTo3Bytes | readPacket | takeBus
  | releaseBus | receive => exact ite_next _ _ _

/-- Settles O5: each operation has a next state, and so has whatever else is fetched. -/
theorem everyStepHasANextState : Obligations.EveryStepHasANextState := by
  intro s
  unfold step
  split
  · exact exec_next _ _
  all_goals exact ⟨_, rfl⟩

end Sys2Proof.Machine
end

section
/-! The registers by number (R24 to R26): each register's byte is a sum of fields at their places, so its bits are read
off value by value of the fields. -/

namespace Sys2Proof.Machine

/-- STATUS: SESS, BUSY and the status code at their bits, and 0 above (R24). -/
theorem statusByte_bits (s : State) :
    (s.statusByte.getLsbD 0 = true ↔ s.sess = .opened) ∧ s.statusByte.getLsbD 1 = s.busy ∧
      (s.statusByte.extractLsb' 2 3).toNat = s.lastSt.code ∧ s.statusByte.extractLsb' 5 3 = 0 := by
  unfold State.statusByte
  cases s.sess <;> cases s.busy <;> cases s.lastSt <;> decide

/-- LINE: RTS and CTS at their bits, and 0 above (R25). -/
theorem lineByte_bits (s : State) (cts : Bool) :
    (s.lineByte cts).getLsbD 0 = s.rts ∧ (s.lineByte cts).getLsbD 1 = cts ∧ (s.lineByte cts).extractLsb' 2 6 = 0 := by
  unfold State.lineByte
  cases s.rts <;> cases cts <;> decide

/-- Register 0x05: RSTATE and HIDX at their bits (R26). -/
theorem readerByte_bits (s : State) :
    s.readerByte.extractLsb' 3 2 = s.hidx ∧ (s.readerByte.extractLsb' 0 3).toNat = s.rstate.code := by
  have hplaces : ∀ (r : ReaderState) (hidx : BitVec 2),
      (BitVec.ofNat 8 (r.code + 8 * hidx.toNat)).extractLsb' 3 2 = hidx ∧
        ((BitVec.ofNat 8 (r.code + 8 * hidx.toNat)).extractLsb' 0 3).toNat = r.code := by
    intro r
    cases r <;> decide
  exact hplaces s.rstate s.hidx

theorem readRegister_of_unnumbered {number : Byte} (h : 9 ≤ number.toNat) (cts : Bool) (s : State) :
    readRegister number cts s = none := by
  obtain ⟨k, hk⟩ := Nat.exists_eq_add_of_le' h
  rw [readRegister, hk]
  rfl

/-- Settles O56: the bytes are named by the register map, and the codes are those of the tables. -/
theorem registersByNumber : Obligations.RegistersByNumber := by
  intro s cts
  obtain ⟨hsess, hbusy, hstatus, hzero⟩ := statusByte_bits s
  obtain ⟨hhidx, hrstate⟩ := readerByte_bits s
  refine ⟨rfl, rfl, rfl, rfl, rfl, ⟨_, rfl, hsess, hbusy, hstatus.trans ?_, hzero⟩, ⟨_, rfl, lineByte_bits s cts⟩,
    ⟨_, rfl, hhidx, hrstate.trans ?_⟩, ⟨_, rfl, ?_⟩, fun number hn => readRegister_of_unnumbered hn cts s⟩
  · cases s.lastSt <;> rfl
  · cases s.rstate <;> rfl
  · cases s.sstate <;> rfl

/-- Settles O57: the scripted level is the sample; no other number takes one. -/
theorem lineReadsTakeAFreshSample : Obligations.LineReadsTakeAFreshSample := by
  refine fun s => ⟨fun v later hcts => ?_, fun number hn => by rw [hostRead, if_neg hn]⟩
  have hsample : takeCts s = (v, { s with ctsIn := later }) := by
    unfold takeCts
    rw [hcts]
  rw [hostRead, if_pos rfl, hsample]
  rfl

end Sys2Proof.Machine
end
